-- ==== Sys2Proof/Word.lean ====
section
/-! DEFINITION. The unit of data of the block, the byte (20_memory.md R42), and the widths of a request's fields
(00_scope.md R6). -/

namespace Sys2Proof

/-- A byte: the unit of every transfer (R42: there is no multi-byte data value). -/
abbrev Byte := BitVec 8

/-- A request's start address, `ADDR_W` = 16 bits (R13). -/
abbrev Addr := BitVec 16

/-- A request's byte count, `LEN_W` = 32 bits (R14). -/
abbrev Len := BitVec 32

/-- The request word, 50 bits (R70). -/
abbrev ReqWord := BitVec 50

/-- The write-data port `req_wdata`, `PAGE_SIZE` * 8 bits; byte `i` is bits `8i+7` to `8i` (R31). -/
abbrev WData := BitVec 2048

end Sys2Proof
end

