-- ==== Sys2Proof/Machine/Types.lean ====
section
/-! DEFINITION. The named values of the block: states, request kinds, results, diagnostics, bus calls and answers, and
the input ports, with the codes the spec gives them. -/

namespace Sys2Proof.Machine

/-- The nine values of the state register `st` (R11). Codes 0x9 to 0xF have no constructor (R156). -/
inductive Phase where
  | detached | probe | idle | rdXfer | wrWren | wrXfer | pollRdsr | pollWait | respond
  deriving DecidableEq, Repr, Inhabited

/-- The 4-bit state codes (R11). -/
def Phase.code : Phase → BitVec 4
  | .detached => 0x0
  | .probe => 0x1
  | .idle => 0x2
  | .rdXfer => 0x3
  | .wrWren => 0x4
  | .wrXfer => 0x5
  | .pollRdsr => 0x6
  | .pollWait => 0x7
  | .respond => 0x8

/-- The four requests (R70), the values of the register `op` (R12). -/
inductive ReqOp where
  | attach | read | write | detach
  deriving DecidableEq, Repr, Inhabited

/-- The 2-bit request op codes (R70). -/
def ReqOp.code : ReqOp → BitVec 2
  | .attach => 0b00
  | .read => 0b01
  | .write => 0b10
  | .detach => 0b11

/-- The request an op code names: all four codes are defined (R73). -/
def ReqOp.ofCode (c : BitVec 2) : ReqOp :=
  if c = 0b00 then .attach
  else if c = 0b01 then .read
  else if c = 0b10 then .write
  else .detach

/-- The result codes, the values of the register `res` (R20, R170). -/
inductive ResultCode where
  | ok | invalidArgument | transportError | timeout
  deriving DecidableEq, Repr, Inhabited

/-- The 2-bit result codes (R170). -/
def ResultCode.code : ResultCode → BitVec 2
  | .ok => 0b00
  | .invalidArgument => 0b01
  | .transportError => 0b10
  | .timeout => 0b11

/-- The five diagnostic events (R190, R191). -/
inductive DiagCode where
  | attach | detach | oobRead | oobWrite | timeout
  deriving DecidableEq, Repr, Inhabited

/-- The 3-bit diagnostic codes (R190). -/
def DiagCode.code : DiagCode → BitVec 3
  | .attach => 0b000
  | .detach => 0b001
  | .oobRead => 0b010
  | .oobWrite => 0b011
  | .timeout => 0b100

/-- One event on the reporting side channel: `Diag(code, arg)` (R189). -/
structure DiagEvent where
  code : DiagCode
  arg : Byte
  deriving DecidableEq, Repr, Inhabited

/-- The values a transport error can carry. DESIGN CHOICE (log 5), safe: the spec leaves the type OPEN (R6, D7) and the
sequencer only copies the value. -/
abbrev TErr := Nat

/-- A transfer descriptor of a message (R187): send these bytes, or receive so many. -/
inductive Desc where
  | tx (bs : List Byte)
  | rx (n : Nat)
  deriving DecidableEq, Repr, Inhabited

/-- A call of the bus transport (R185). -/
inductive Call where
  | send (bs : List Byte)
  | transceive (ds : List Desc)
  deriving DecidableEq, Repr, Inhabited

/-- The transport's answer to a call (R186, R187): the received bytes in order, or the error value. -/
inductive Answer where
  | ok (rx : List Byte)
  | err (e : TErr)
  deriving DecidableEq, Repr, Inhabited

/-- One entry of the bus log (R30). -/
structure BusEntry where
  call : Call
  answer : Answer
  deriving DecidableEq, Repr, Inhabited

/-- What the caller receives when it takes a response (R152, R72): the result code, the error value only with
`TRANSPORT_ERROR`, the data only of a read that ended `OK`. Where `data` is none, nothing is said of the caller's
buffer: it holds any bytes (R118). -/
structure Response where
  op : ReqOp
  code : ResultCode
  terr : Option TErr
  data : Option (List Byte)
  deriving DecidableEq, Repr, Inhabited

/-- The input ports of R31 as one step samples them. DESIGN CHOICE (log 1): `req` is `req_valid` with `req_word`; `bus` is
`bt_done` with `bt_err`, `bt_errval` and the bytes received during the call. -/
structure Inputs where
  rst : Bool
  tick : Bool
  req : Option ReqWord
  wdata : WData
  rspReady : Bool
  bus : Option Answer
  deriving DecidableEq, Repr, Inhabited

/-- All input ports low: nobody moves. -/
def Inputs.quiet : Inputs :=
  { rst := false, tick := false, req := none, wdata := 0, rspReady := false, bus := none }

/-- Where the bytes a successful call receives come from. DESIGN CHOICE (log 11): the oracle is the spec's own reading (R188);
`chip` is the named assumption that a chip as R52 to R57 and the reference double describe it stands behind the
transport. -/
inductive Backend where
  | oracle | chip
  deriving DecidableEq, Repr, Inhabited

/-- The transaction registers other than `st` (R12 to R21), as one record: what a reset leaves unspecified (R200). -/
structure Regs where
  op : ReqOp
  addr : Addr
  len : Len
  wbuf : List Byte
  rbuf : List Byte
  status : Byte
  attempt : BitVec 7
  ivlCnt : Nat
  res : ResultCode
  terr : TErr
  deriving DecidableEq, Repr, Inhabited

end Sys2Proof.Machine
end

