-- ==== Sys2Proof/Config.lean ====
section
/-! DEFINITION. The elaboration-time parameters (00_scope.md R5, R6) and the free values: what the spec leaves open, as
constants with no body, so that no proof can see a value of theirs. -/

namespace Sys2Proof

/-- The parameters one instance of the block can be built with: "injectable" (90_conflicts.md C7), fixed for the instance.
They stand in State so that a statement over all states holds for every instance (log 3). -/
structure Config where
  /-- `MAX_ATTEMPTS` (R5). -/
  maxAttempts : Nat
  /-- `INTERVAL_TICKS`, OPEN (R6). -/
  intervalTicks : Nat
  /-- Where received bytes come from (log 11). -/
  backend : Machine.Backend
  /-- `BUSY_READS` of the reference double (95_test_vectors.md section 4), OPEN (log 14). -/
  busyReads : Nat
  deriving DecidableEq, Repr, Inhabited

/-- `TOTAL_SIZE` (R5). -/
def Config.totalSize : Nat := 262144

/-- `PAGE_SIZE` (R5). -/
def Config.pageSize : Nat := 256

/-- `BUSY_MASK` (R5). -/
def Config.busyMask : Byte := 0x01

/-- `OPC_READ` (R5). -/
def Config.opcRead : Byte := 0x03

/-- `OPC_WRITE` (R5). -/
def Config.opcWrite : Byte := 0x02

/-- `OPC_WREN` (R5). -/
def Config.opcWren : Byte := 0x06

/-- `OPC_RDSR` (R5). -/
def Config.opcRdsr : Byte := 0x05

/-- `ADDR_W` (R6). -/
def Config.addrW : Nat := 16

/-- `LEN_W` (R6). -/
def Config.lenW : Nat := 32

/-- `ATT_W` (R6). -/
def Config.attW : Nat := 7

/-- `MAX_ATTEMPTS` as the source gives it (R5). -/
def Config.sourceMaxAttempts : Nat := 100

/-- The number of array addresses a 16-bit header can name (R49). -/
def Config.headerSpan : Nat := 65536

/-- `INTERVAL_TICKS` of the instance after reset: OPEN (R6, D15), so any value (log 3). -/
opaque Config.openIntervalTicks : Nat

/-- `BUSY_READS` of the chip after reset: a parameter of the double, so any value (log 14). -/
opaque Config.openBusyReads : Nat

/-- The input ports once the script is at its end: the environment is free (R10), so any values (log 1). -/
opaque Config.anyInputs : Nat → Machine.Inputs

/-- The bytes `any(n)` in `rbuf` after a failed read (R16): draw, index (log 9). -/
opaque Config.anyReadByte : Nat → Nat → Byte

/-- Received bytes where the port shows a number of bytes that R187 rules out: draw, index (log 10). -/
opaque Config.anyRxByte : Nat → Nat → Byte

/-- `terr` where the result is no transport error (R21, 93_implementation_defined.md U6): draw (log 18). -/
opaque Config.anyTErr : Nat → Machine.TErr

/-- The transaction registers after a Reset event (R200): draw (log 7). -/
opaque Config.anyRegs : Nat → Machine.Regs

/-- What the chip returns where no source says it (93_implementation_defined.md U4, U7): draw, index (log 12). -/
opaque Config.anyChipByte : Nat → Nat → Byte

/-- Bits 7:1 of the chip's status byte (U5): draw (log 14). -/
opaque Config.anyStatusBits : Nat → Byte

/-- What the array holds where no source says it (U2, U3, U7): draw, address (log 12). -/
opaque Config.anyArrayByte : Nat → Nat → Byte

/-- The write-enable latch where no source says it (U2, U7): draw (log 12). -/
opaque Config.anyLatch : Nat → Bool

/-- The chip's busy count where no source says it (U2, U7): draw (log 12). -/
opaque Config.anyBusy : Nat → Nat

/-- The parameters the machine comes out of reset with. -/
def Config.atReset : Config where
  maxAttempts := Config.sourceMaxAttempts
  intervalTicks := Config.openIntervalTicks
  backend := .oracle
  busyReads := Config.openBusyReads

end Sys2Proof
end

