-- ==== Sys2Proof/Machine/Framer.lean ====
section
/-! DEFINITION. The command framer (40_command_framer.md): the byte sequence of each bus command, and how a message is
made of it (30_encoding.md R60 to R66). -/

namespace Sys2Proof.Machine

/-- `frame_address(cmd_opcode, addr)` (R80): opcode, address high byte, address low byte; bits above 15 are dropped. Stated
for any address width, as the rule is. -/
def frameAddress {w : Nat} (opc : Byte) (addr : BitVec w) : List Byte :=
  [opc, addr.extractLsb' 8 8, addr.extractLsb' 0 8]

/-- The address field of a CMD3 header, from its high and low byte (R40, R62). -/
def headerAddress (hi lo : Byte) : Addr := hi ++ lo

/-- The WREN call (R110): a plain `send` (R63). -/
def wrenCall : Call := .send [Config.opcWren]

/-- `read_status()` (R90): one message of two transfers. -/
def rdsrCall : Call := .transceive [.tx [Config.opcRdsr], .rx 1]

/-- The READ message (R116): header, then `n` bytes received; two descriptors also for `n = 0` (R63). -/
def readCall (a : Addr) (n : Nat) : Call := .transceive [.tx (frameAddress Config.opcRead a), .rx n]

/-- The WRITE message (R128): header, then the data sent; two descriptors also for no data (R63). -/
def writeCall (a : Addr) (d : List Byte) : Call := .transceive [.tx (frameAddress Config.opcWrite a), .tx d]

/-- The number of bytes a call receives: the sum over its `RX` descriptors (R187). -/
def Call.rxCount : Call → Nat
  | .send _ => 0
  | .transceive ds => (ds.map fun d => match d with | .tx _ => 0 | .rx n => n).sum

end Sys2Proof.Machine
end

