-- ==== Sys2Proof/Syntax.lean ====
section
/-! DEFINITION. The instructions: the four bus commands the sequencer emits and the four requests it accepts
(00_scope.md R1, 30_encoding.md R60, R70), one constructor per row of opcode_table.json. -/

namespace Sys2Proof

/-- One constructor per row of the opcode table, with the fields its encoding carries. The payload of a command and the
write data of a request are not in the encoding (R66, R70): they stand in State. -/
inductive Instr where
  /-- WREN, 0x06, format CMD1 (R110). -/
  | wren
  /-- RDSR, 0x05, format CMD1 (R90). -/
  | rdsr
  /-- READ, 0x03, format CMD3 with address field `a` (R116). -/
  | read (a : Addr)
  /-- WRITE, 0x02, format CMD3 with address field `a` (R128). -/
  | write (a : Addr)
  /-- REQ_ATTACH, op 0b00; bits 47:0 are ignored, and kept here so that a word is read whole (R140, R71). -/
  | reqAttach (ignored : BitVec 48)
  /-- REQ_READ, op 0b01 (R115). -/
  | reqRead (addr : Addr) (len : Len)
  /-- REQ_WRITE, op 0b10 (R125). -/
  | reqWrite (addr : Addr) (len : Len)
  /-- REQ_DETACH, op 0b11; bits 47:0 are ignored, and kept here so that a word is read whole (R142, R71). -/
  | reqDetach (ignored : BitVec 48)
  deriving DecidableEq, Repr

end Sys2Proof
end

