-- ==== Sys2Proof/Decode.lean ====
section
/-! DEFINITION. The decoder of bus command frames and request words (30_encoding.md R60 to R73), total and rejecting by
name, and after it the encoder. -/

namespace Sys2Proof

open Machine

/-- The bits of one instruction: a command's header bytes in bus order, or a request word. -/
inductive Raw where
  | frame (bs : List Byte)
  | word (w : ReqWord)
  deriving DecidableEq, Repr

/-- Why bits are no instruction. -/
inductive DecodeError where
  /-- No byte at all. -/
  | emptyFrame
  /-- An opcode byte other than 0x02, 0x03, 0x05, 0x06 (R65, R67). -/
  | unknownOpcode (opc : Byte)
  /-- A READ or WRITE header of fewer than 3 bytes (R66). -/
  | shortHeader (opc : Byte)
  /-- Bytes after the header the opcode decides (R66). -/
  | trailingBytes
  deriving DecidableEq, Repr

/-- Reads the two address bytes of a CMD3 header (R62). -/
def decodeAddress (opc : Byte) (mk : Addr → Instr) : List Byte → Except DecodeError (Instr × List Byte)
  | hi :: lo :: rest => .ok (mk (headerAddress hi lo), rest)
  | _ => .error (.shortHeader opc)

/-- Reads one bus command header and answers the bytes left over. The opcode alone decides the length (R66). -/
def decodeFrame : List Byte → Except DecodeError (Instr × List Byte)
  | [] => .error .emptyFrame
  | opc :: rest =>
    if opc = Config.opcWren then .ok (.wren, rest)
    else if opc = Config.opcRdsr then .ok (.rdsr, rest)
    else if opc = Config.opcRead then decodeAddress opc .read rest
    else if opc = Config.opcWrite then decodeAddress opc .write rest
    else .error (.unknownOpcode opc)

/-- Reads a request word: op in bits 49:48, addr in 47:32, len in 31:0 (R70). No word is illegal (R73). -/
def decodeRequest (w : ReqWord) : Instr :=
  match ReqOp.ofCode (w.extractLsb' 48 2) with
  | .attach => .reqAttach (w.extractLsb' 0 48)
  | .read => .reqRead (w.extractLsb' 32 16) (w.extractLsb' 0 32)
  | .write => .reqWrite (w.extractLsb' 32 16) (w.extractLsb' 0 32)
  | .detach => .reqDetach (w.extractLsb' 0 48)

/-- The instruction that bits stand for; a frame must be one header and nothing more. -/
def decode : Raw → Except DecodeError Instr
  | .word w => .ok (decodeRequest w)
  | .frame bs =>
    match decodeFrame bs with
    | .error e => .error e
    | .ok (i, []) => .ok i
    | .ok (_, _ :: _) => .error .trailingBytes

/-- A request word from its three fields (R70). -/
def requestWord (op : ReqOp) (addr : Addr) (len : Len) : ReqWord := op.code ++ addr ++ len

/-- A request word whose 48 lower bits are ignored (R71). -/
def lifecycleWord (op : ReqOp) (ignored : BitVec 48) : ReqWord := op.code ++ ignored

/-- The bits of an instruction, from the formats CMD1, CMD3 and REQ (R61, R62, R70). -/
def encode : Instr → Raw
  | .wren => .frame [Config.opcWren]
  | .rdsr => .frame [Config.opcRdsr]
  | .read a => .frame (frameAddress Config.opcRead a)
  | .write a => .frame (frameAddress Config.opcWrite a)
  | .reqAttach x => .word (lifecycleWord .attach x)
  | .reqRead a n => .word (requestWord .read a n)
  | .reqWrite a n => .word (requestWord .write a n)
  | .reqDetach x => .word (lifecycleWord .detach x)

/-- The number of bits of an instruction's row in the opcode table. -/
def Instr.width : Instr → Nat
  | .wren | .rdsr => 8
  | .read _ | .write _ => 24
  | .reqAttach _ | .reqRead _ _ | .reqWrite _ _ | .reqDetach _ => 50

/-- An instruction's bits as the one number the opcode table writes: a frame with byte 0 most significant (R62). -/
def tableNumber (i : Instr) : Nat :=
  match encode i with
  | .frame bs => bs.foldl (fun n b => n * 256 + b.toNat) 0
  | .word w => w.toNat

/-- Lays out the bits of one table row (log 17): up to 8 bits are the first byte of a frame, up to 24 bits a frame with its
first byte most significant, more a request word. A frame given without its operand bytes is filled up with zeros. -/
def rawOfTable (nbits w : Nat) : Option Raw :=
  if nbits ≤ 8 then
    if w < 2 ^ 8 then some (.frame [BitVec.ofNat 8 w, 0, 0]) else none
  else if nbits ≤ 24 then
    if w < 2 ^ 24 then some (.frame [BitVec.ofNat 8 (w / 65536), BitVec.ofNat 8 (w / 256), BitVec.ofNat 8 w]) else none
  else if w < 2 ^ 50 then some (.word (BitVec.ofNat 50 w))
  else none

/-- The instruction the decoder reads from a table row's bits. -/
def decodeTableWord (nbits w : Nat) : Option Instr :=
  match rawOfTable nbits w with
  | none => none
  | some (.word r) => some (decodeRequest r)
  | some (.frame bs) =>
    match decodeFrame bs with
    | .error _ => none
    | .ok (i, _) => some i

end Sys2Proof
end

