-- ==== Sys2Proof/Machine/State.lean ====
section
/-! DEFINITION. The machine's state as plain data, the reasons a step can stop, and the state after reset. -/

namespace Sys2Proof.Machine

/-- Why a step stops. -/
inductive Fault where
  /-- Raised by `step` alone, if the bits it fetches decode to no instruction. Safe: no state reaches it, since every request
  word decodes (R73) and every header the framer builds decodes. -/
  | undecodable
  deriving DecidableEq, Repr

/-- Why an instruction has no meaning in the model. -/
inductive Refusal where
  /-- Raised by `exec` for an instruction that has no meaning yet. No arm answers it. Safe: the machine stops. -/
  | notModelled (mnemonic : String)
  deriving DecidableEq, Repr

/-- The chip's hidden state (R27), as far as the reference double has it (95_test_vectors.md section 4). It is read and
written only with `Backend.chip` (log 11). -/
structure Chip where
  /-- The array (R48), sparse: addresses strictly rising, no entry equal to what an unlisted address reads as (log 13). -/
  mem : List Host.Cell
  /-- The write-enable latch (R54). -/
  wel : Bool
  /-- How many status reads will still show write-in-progress (R52). -/
  busy : Nat
  deriving DecidableEq, Repr

/-- Everything the spec gives the machine (INVENTORY.md lists it with rules and reset values). -/
structure State where
  /-- Elaboration parameters, the same before and after every step (R24). -/
  cfg : Config
  /-- The state register (R11). -/
  st : Phase
  /-- The request in flight (R12). -/
  op : ReqOp
  /-- Its start address (R13). -/
  addr : Addr
  /-- Its byte count (R14). -/
  len : Len
  /-- Write data (R15). -/
  wbuf : List Byte
  /-- Read data (R16). -/
  rbuf : List Byte
  /-- The last status byte read (R17). -/
  status : Byte
  /-- The attempt counter (R18). -/
  attempt : BitVec 7
  /-- The interval timer (R19), a number below `2 ^ IVL_W` (log 4). -/
  ivlCnt : Nat
  /-- The result code (R20). -/
  res : ResultCode
  /-- The transport's error value (R21). -/
  terr : TErr
  /-- The chip behind the transport (R27, log 11). -/
  chip : Chip
  /-- The bus log, oldest first (R30). -/
  busLog : List BusEntry
  /-- The diag log, oldest first (R30). -/
  diagLog : List DiagEvent
  /-- The responses delivered, oldest first (log 16). -/
  rspLog : List Response
  /-- The input ports of this step (R31, log 1). -/
  inp : Inputs
  /-- The input ports of the coming steps, in order (log 1). -/
  script : List Inputs
  /-- The index of the next free value (log 22). -/
  draws : Nat
  deriving DecidableEq, Repr

/-- The chip as the double starts: a fresh array, latch clear, not busy. DESIGN CHOICE (log 13). -/
def Chip.fresh : Chip := { mem := [], wel := false, busy := 0 }

/-- The machine right after reset (R33): no handle, logs empty; the registers the spec leaves unspecified hold the values
log 6 names. -/
def State.reset : State where
  cfg := Config.atReset
  st := .detached
  op := .attach
  addr := 0
  len := 0
  wbuf := []
  rbuf := []
  status := 0
  attempt := 0
  ivlCnt := 0
  res := .ok
  terr := 0
  chip := Chip.fresh
  busLog := []
  diagLog := []
  rspLog := []
  inp := Inputs.quiet
  script := []
  draws := 0

end Sys2Proof.Machine
end

