-- ==== Sys2Proof/Machine/Memory.lean ====
section
/-! DEFINITION. The EEPROM array (20_memory.md R48) as a sparse list of cells in one canonical form, and every operation
on it. -/

namespace Sys2Proof.Machine

/-- What an address nothing has written reads as. DESIGN CHOICE (log 13), unsafe: the source does not say what a fresh chip
holds (M0 is a parameter of the double, all 0x00 in its programs). -/
def Memory.blank : Byte := 0

/-- The canonical form from address `lo` up: addresses strictly rising and inside the array, no blank entry. -/
def Memory.wfFrom (lo : Nat) : List Host.Cell → Bool
  | [] => true
  | (a, v) :: rest =>
    decide (lo ≤ a) && decide (a < Config.totalSize) && decide (v ≠ Memory.blank) && Memory.wfFrom (a + 1) rest

/-- The canonical form of the array. -/
def Memory.wf (m : List Host.Cell) : Bool := Memory.wfFrom 0 m

/-- The byte at an address. -/
def Memory.read (m : List Host.Cell) (a : Nat) : Byte :=
  match m with
  | [] => Memory.blank
  | (b, v) :: rest => if b = a then v else Memory.read rest a

/-- Puts a byte at an address, keeping the form: a blank byte leaves no entry. -/
def Memory.put (m : List Host.Cell) (a : Nat) (v : Byte) : List Host.Cell :=
  match m with
  | [] => if v = Memory.blank then [] else [(a, v)]
  | (b, w) :: rest =>
    if a < b then
      if v = Memory.blank then (b, w) :: rest else (a, v) :: (b, w) :: rest
    else if a = b then
      if v = Memory.blank then rest else (a, v) :: rest
    else (b, w) :: Memory.put rest a v

/-- Writes a byte: addresses past the array have no cell, and nothing is stored there (R48: nothing else is mapped). -/
def Memory.write (m : List Host.Cell) (a : Nat) (v : Byte) : List Host.Cell :=
  if a < Config.totalSize then Memory.put m a v else m

/-- `MemWrite(a, n, v)`: writes bytes at rising addresses. -/
def Memory.writeBytes (m : List Host.Cell) (a : Nat) : List Byte → List Host.Cell
  | [] => m
  | v :: rest => Memory.writeBytes (Memory.write m a v) (a + 1) rest

/-- `MemRead(a, n)`: reads bytes at rising addresses. -/
def Memory.readBytes (m : List Host.Cell) (a n : Nat) : List Byte :=
  (List.range n).map fun i => Memory.read m (a + i)

end Sys2Proof.Machine
end

