-- ==== Sys2Proof/Machine/Operands.lean ====
section
/-! DEFINITION. Operand forms: the range checks of a request, the capture of write data, received bytes, the width of the
interval timer, and the bytes of a free draw. -/

namespace Sys2Proof.Machine

/-- Check 1: `addr + len <= TOTAL_SIZE`, on the exact sum (R115, R125; no wrap). -/
def inArray (addr : Addr) (len : Len) : Bool := decide (addr.toNat + len.toNat ≤ Config.totalSize)

/-- Check 2: `len <= PAGE_SIZE` (R125). Page crossing is not checked (R43). -/
def fitsPage (len : Len) : Bool := decide (len.toNat ≤ Config.pageSize)

/-- Byte `i` of the write data: bits `8i+7` to `8i` of `req_wdata` (R31). -/
def wdataByte (d : WData) (i : Nat) : Byte := d.extractLsb' (8 * i) 8

/-- The capture `wbuf[i] <- data[i]` for `0 <= i < n` (R15, R125); bytes at `n` and above are ignored (R71). -/
def captureData (d : WData) (n : Nat) : List Byte := (List.range n).map (wdataByte d)

/-- `IVL_W` (R6): the least width `w` with `INTERVAL_TICKS < 2 ^ w`. -/
def ivlW (c : Config) : Nat := if c.intervalTicks = 0 then 0 else Nat.log2 c.intervalTicks + 1

/-- What a timer register of `IVL_W` bits holds of a number (R19). -/
def fitTimer (c : Config) (n : Nat) : Nat := n % 2 ^ ivlW c

/-- `any(n)`: `n` bytes of a free draw. -/
def anyBytes (byteAt : Nat → Byte) (n : Nat) : List Byte := (List.range n).map byteAt

/-- The bytes received by a call that asks for `n`: those on the port, which R187 says are `n` bytes. A port that shows another
number stands for any `n` bytes (log 10). -/
def receivedBytes (pad : Nat → Byte) (n : Nat) (rx : List Byte) : List Byte :=
  if rx.length = n then rx else anyBytes pad n

/-- The status byte of an `Ok` answer to `read_status`: `rx[0]` (R90). -/
def statusOf (rx : List Byte) : Byte := rx.headD 0

end Sys2Proof.Machine
end

