-- ==== Sys2Proof/Machine/Chip.lean ====
section
/-! DEFINITION. The chip behind the transport: the reference double of 95_test_vectors.md section 4 on the runs it
defines, free values where it has no answer (93_implementation_defined.md U2, U3, U4, U7, U9; logs 12, 21). -/

namespace Sys2Proof.Machine

/-- What a call asks of the chip. -/
inductive ChipOp where
  | setLatch
  | readStatus
  | readArray (a : Nat) (n : Nat)
  | writeArray (a : Nat) (d : List Byte)
  | noCommand
  deriving DecidableEq, Repr

/-- Reads a call as the chip does: by the header of its first transfer. -/
def Call.chipOp : Call → ChipOp
  | .send bs =>
    match decode (.frame bs) with
    | .ok .wren => .setLatch
    | _ => .noCommand
  | .transceive [.tx h, .rx n] =>
    match decode (.frame h) with
    | .ok .rdsr => .readStatus
    | .ok (.read a) => .readArray a.toNat n
    | _ => .noCommand
  | .transceive [.tx h, .tx d] =>
    match decode (.frame h) with
    | .ok (.write a) => .writeArray a.toNat d
    | _ => .noCommand
  | .transceive _ => .noCommand

/-- The page an array address lies in (R48). -/
def pageOf (a : Nat) : Nat := a / Config.pageSize

/-- Gives every byte of page `p` a free value. -/
def losePage (k : Nat) (m : List Host.Cell) (p : Nat) : List Host.Cell :=
  Memory.writeBytes m (p * Config.pageSize)
    ((List.range Config.pageSize).map fun i => Config.anyArrayByte k (p * Config.pageSize + i))

/-- Page numbers from the first to the last. -/
def pagesBetween (first last : Nat) : List Nat := List.range' first (last + 1 - first)

/-- The pages that `n` bytes from array address `a` may touch: from the page of the first byte to that of the last, and the
lowest pages where the bytes run past the 16 address bits and may wrap (R49, log 21). -/
def touchedPages (a n : Nat) : List Nat :=
  if n = 0 then []
  else
    pagesBetween (pageOf a) (pageOf (a + n - 1))
      ++ (if Config.headerSpan < a + n then pagesBetween 0 (pageOf (a + n - 1 - Config.headerSpan)) else [])

/-- Gives every byte of the pages touched a free value (U2, U3). -/
def losePages (k : Nat) (m : List Host.Cell) (a n : Nat) : List Host.Cell :=
  (touchedPages a n).foldl (losePage k) m

/-- A write whose effect no source gives: the pages it addresses, the latch and the busy count are free (U2, U3, U7, U9). -/
def Chip.loseWrite (k : Nat) (c : Chip) (a n : Nat) : Chip :=
  { mem := losePages k c.mem a n, wel := Config.anyLatch k, busy := Config.anyBusy k }

/-- A command to a chip that is still busy: the array range it addresses holds any values (U7). -/
def Chip.loseRange (k : Nat) (c : Chip) (a n : Nat) : Chip := { c with mem := losePages k c.mem a n }

/-- The chip after a READ: a ready chip is untouched (R47), a busy one may hold any bytes in the range addressed (U7). -/
def Chip.afterReadArray (k : Nat) (c : Chip) (a n : Nat) : Chip := if c.busy = 0 then c else c.loseRange k a n

/-- A WRITE message whose effect the double gives: chip ready, latch set, inside one page (section 4 of 95), and not without
data, where U9 leaves the busy behaviour to any value. -/
def Chip.writeDefined (c : Chip) (a n : Nat) : Bool :=
  decide (c.busy = 0) && c.wel && decide (0 < n) && decide (a % Config.pageSize + n ≤ Config.pageSize)

/-- The chip's status byte (R25): bit 0 shows it busy, bits 7:1 are any bits (U5, log 14). -/
def Chip.statusByte (k : Nat) (c : Chip) : Byte :=
  (Config.anyStatusBits k &&& 0xFE) ||| (if 0 < c.busy then 0x01 else 0x00)

/-- One byte of a READ: the array's while the address fits the header's 16 bits, any value past them (U4). -/
def Chip.readByte (k : Nat) (c : Chip) (a i : Nat) : Byte :=
  if a + i < Config.headerSpan then Memory.read c.mem (a + i) else Config.anyChipByte k i

/-- The bytes the chip returns to a call delivered whole. A busy chip answers a READ with any bytes (U7). -/
def Chip.reply (k : Nat) (c : Chip) (call : Call) : List Byte :=
  match call.chipOp with
  | .readStatus => [c.statusByte k]
  | .readArray a n =>
    if c.busy = 0 then (List.range n).map (c.readByte k a) else anyBytes (Config.anyChipByte k) n
  | .setLatch => []
  | .writeArray _ _ => []
  | .noCommand => []

/-- The chip after a call delivered whole: the double where it is defined, free values elsewhere. DESIGN CHOICE (log 12), unsafe:
what a chip still busy does with WREN is open (R206); here only its latch is free, its array and busy count stay. -/
def Chip.deliver (busyReads k : Nat) (c : Chip) (call : Call) : Chip :=
  match call.chipOp with
  | .setLatch => if c.busy = 0 then { c with wel := true } else { c with wel := Config.anyLatch k }
  | .readStatus => { c with busy := c.busy - 1 }
  | .readArray a n => c.afterReadArray k a n
  | .writeArray a d =>
    if c.writeDefined a d.length then
      { mem := Memory.writeBytes c.mem a d, wel := false, busy := busyReads }
    else c.loseWrite k a d.length
  | .noCommand => c

/-- The chip after a call that the transport answered with an error: nothing is known of how much
of it was done (R178, R187). A status read has no side effect (R47): a ready chip stays ready, and of a busy one it is open
whether the read counted (log 12). -/
def Chip.fail (k : Nat) (c : Chip) (call : Call) : Chip :=
  match call.chipOp with
  | .setLatch => { c with wel := Config.anyLatch k, busy := Config.anyBusy k }
  | .readStatus => { c with busy := min c.busy (Config.anyBusy k) }
  | .readArray a n => c.afterReadArray k a n
  | .writeArray a d => c.loseWrite k a d.length
  | .noCommand => c

end Sys2Proof.Machine
end

