-- ==== Sys2Proof/Machine/Flags.lean ====
section
/-! DEFINITION. The block's flag computations (10_state.md R23): the busy test and the attempt comparison. -/

namespace Sys2Proof.Machine

/-- The busy test (R91): `(s & BUSY_MASK) != 0`; no other bit is looked at (R69). -/
def busy (s : Byte) : Bool := decide (s &&& Config.busyMask ≠ 0)

/-- The bound of `wait_ready`: `attempt + 1 < MAX_ATTEMPTS`, compared without wrap (R95 to R97). -/
def attemptsLeft (maxAttempts : Nat) (attempt : BitVec 7) : Bool := decide (attempt.toNat + 1 < maxAttempts)

end Sys2Proof.Machine
end

