-- ==== Sys2Proof/Machine/Ops.lean ====
section
/-! DEFINITION. The shared operations of the sequencer: accepting a request, making a bus call, the pseudocode primitives
`Diag`, `raise` and `complete` (00_scope.md section 7), delivering the response, and sampling the input ports. -/

namespace Sys2Proof.Machine

/-- The outcome of one step of this machine. -/
abbrev Result := Host.Outcome State Fault Refusal

/-- Does what follows an instruction, when it answers a next state. -/
def Result.thenDo (r : Result) (f : State → State) : Result :=
  match r with
  | .next s => .next (f s)
  | .fault e => .fault e
  | .refused e => .refused e

/-- `Diag(code, arg)` (R189). -/
def State.emit (s : State) (code : DiagCode) (arg : Byte) : State :=
  { s with diagLog := s.diagLog ++ [⟨code, arg⟩] }

/-- The three failures (R171 to R173). -/
inductive Failure where
  | invalidArgument
  | transportError (e : TErr)
  | timeout
  deriving DecidableEq, Repr

/-- Leaves `terr` without a value: what R21 and 93_implementation_defined.md U6 say of it when the result is no transport
error (log 18). -/
def State.forgetTErr (s : State) : State := { s with terr := Config.anyTErr s.draws, draws := s.draws + 1 }

/-- Raising a failure (R177): the one operation by which every instruction takes its exception. The code goes to `res`, the
transport's value to `terr`, control to `S_RESPOND`; nothing else is saved. -/
def State.raise (s : State) (f : Failure) : State :=
  match f with
  | .invalidArgument => { s.forgetTErr with res := .invalidArgument, st := .respond }
  | .transportError e => { s with res := .transportError, terr := e, st := .respond }
  | .timeout => { s.forgetTErr with res := .timeout, st := .respond }

/-- `complete OK` (00_scope.md section 7). -/
def State.complete (s : State) : State := { s.forgetTErr with res := .ok, st := .respond }

/-- Which requests a state accepts (R150). -/
def accepts : Phase → ReqOp → Bool
  | .detached, .attach => true
  | .idle, .read => true
  | .idle, .write => true
  | .idle, .detach => true
  | _, _ => false

/-- Acceptance (R151): one step that latches `op` and does what `f` says. A request that is not accepted has no step: nothing
changes and it waits at the port (R150, log 8). -/
def acceptRequest (s : State) (r : ReqOp) (f : State → State) : Result :=
  if accepts s.st r then .next (f { s with op := r }) else .next s

/-- The answer the transport gives to a call this step; none while it has not answered (R155). -/
def State.answerTo (s : State) (call : Call) : Option Answer :=
  match s.inp.bus with
  | none => none
  | some (.err e) => some (.err e)
  | some (.ok rx) =>
    match s.cfg.backend with
    | .oracle => some (.ok (receivedBytes (Config.anyRxByte s.draws) call.rxCount rx))
    | .chip => some (.ok (s.chip.reply s.draws call))

/-- The chip after a call answered so (log 11). -/
def State.chipAfter (s : State) (call : Call) (a : Answer) : Chip :=
  match s.cfg.backend, a with
  | .oracle, _ => s.chip
  | .chip, .ok _ => s.chip.deliver s.cfg.busyReads s.draws call
  | .chip, .err _ => s.chip.fail s.draws call

/-- Enters `(call, answer)` in the bus log (R153) and lets the chip act on the call. -/
def State.logCall (s : State) (call : Call) (a : Answer) : State :=
  { s with
    busLog := s.busLog ++ [⟨call, a⟩]
    chip := s.chipAfter call a
    draws := s.draws + 1 }

/-- The bus-call step (R153): issue and answer are one atomic step, after which `k` applies the rule for the answer. Until the
transport answers, the sequencer waits (R155). -/
def busStep (s : State) (call : Call) (k : State → Answer → State) : Result :=
  match s.answerTo call with
  | none => .next s
  | some a => .next (k (s.logCall call a) a)

/-- A write that ends without `OK` after its WRITE message was sent leaves the chip unspecified (R178, U2). -/
def State.loseWrite (s : State) : State :=
  match s.cfg.backend with
  | .oracle => s
  | .chip => { s with chip := s.chip.loseWrite s.draws s.addr.toNat s.len.toNat, draws := s.draws + 1 }

/-- The state after the response (R152). -/
def afterResponse (op : ReqOp) (res : ResultCode) : Phase :=
  match op with
  | .detach => .detached
  | .attach => if res = .ok then .idle else .detached
  | .read => .idle
  | .write => .idle

/-- What the caller receives (R152). -/
def State.response (s : State) : Response where
  op := s.op
  code := s.res
  terr := if s.res = .transportError then some s.terr else none
  data := if s.op = .read ∧ s.res = .ok then some s.rbuf else none

/-- `Respond` (R152): the return from every request and every failure. No register but `st` changes. -/
def State.deliverResponse (s : State) : State :=
  { s with st := afterResponse s.op s.res, rspLog := s.rspLog ++ [s.response] }

/-- `Tick` in `S_POLL_WAIT` (R101). -/
def State.countTick (s : State) : State :=
  if s.ivlCnt = 0 then { s with st := .pollRdsr } else { s with ivlCnt := s.ivlCnt - 1 }

/-- The header of the bus command outstanding in a state: a function of the state and the registers (R153). -/
def State.outstandingHeader (s : State) : Option (List Byte) :=
  match s.st with
  | .probe => some [Config.opcRdsr]
  | .rdXfer => some (frameAddress Config.opcRead s.addr)
  | .wrWren => some [Config.opcWren]
  | .wrXfer => some (frameAddress Config.opcWrite s.addr)
  | .pollRdsr => some [Config.opcRdsr]
  | .detached => none
  | .idle => none
  | .pollWait => none
  | .respond => none

/-- The call outstanding in a state (R153). -/
def State.outstandingCall (s : State) : Option Call :=
  match s.st with
  | .probe => some rdsrCall
  | .rdXfer => some (readCall s.addr s.len.toNat)
  | .wrWren => some wrenCall
  | .wrXfer => some (writeCall s.addr s.wbuf)
  | .pollRdsr => some rdsrCall
  | .detached => none
  | .idle => none
  | .pollWait => none
  | .respond => none

/-- The transaction registers, all at once; the timer holds what fits its width (R6, R19). -/
def State.setRegs (s : State) (r : Regs) : State :=
  { s with
    op := r.op
    addr := r.addr
    len := r.len
    wbuf := r.wbuf
    rbuf := r.rbuf
    status := r.status
    attempt := r.attempt
    ivlCnt := fitTimer s.cfg r.ivlCnt
    res := r.res
    terr := r.terr }

/-- The chip when reset cuts a transaction off (R201, U10): its latch and busy count are unspecified, and so are the pages that
the READ or WRITE message addressed (log 7). -/
def State.abandonedChip (s : State) : Chip :=
  match s.cfg.backend with
  | .oracle => s.chip
  | .chip =>
    match s.st with
    | .probe => s.chip.loseWrite s.draws 0 0
    | .rdXfer => s.chip.loseWrite s.draws s.addr.toNat s.len.toNat
    | .wrWren => s.chip.loseWrite s.draws 0 0
    | .wrXfer => s.chip.loseWrite s.draws s.addr.toNat s.len.toNat
    | .pollRdsr => s.chip.loseWrite s.draws s.addr.toNat s.len.toNat
    | .pollWait => s.chip.loseWrite s.draws s.addr.toNat s.len.toNat
    | .detached => s.chip
    | .idle => s.chip
    | .respond => s.chip

/-- `Reset` (R200, T25): no handle, the other registers unspecified (log 7), the logs empty (R33). -/
def State.resetEvent (s : State) : State :=
  { s.setRegs (Config.anyRegs s.draws) with
    st := .detached
    chip := s.abandonedChip
    busLog := []
    diagLog := []
    rspLog := []
    draws := s.draws + 1 }

/-- Loads the input ports of the next step: the script's, and any values at its end (log 1). -/
def State.sample (s : State) : State :=
  match s.script with
  | x :: rest => { s with inp := x, script := rest }
  | [] => { s with inp := Config.anyInputs s.draws, draws := s.draws + 1 }

end Sys2Proof.Machine
end

