-- ==== Sys2Proof/Machine/BusCommands.lean ====
section
/-! DEFINITION. The four bus commands: what each does in the state that has its call outstanding (R153), by the
transport's answer. In any other state the sequencer makes no such call, and nothing changes (log 8). -/

namespace Sys2Proof.Machine

/-- The answer to WREN (R110): on to the WRITE message with no wait (R111), or the error. -/
def afterWren (s : State) : Answer → State
  | .ok _ => { s with st := .wrXfer }
  | .err e => s.raise (.transportError e)

/-- The answer to the attach probe (R141): no status bit is looked at. -/
def afterProbe (s : State) : Answer → State
  | .ok rx => (({ s with status := statusOf rx }).emit .attach (statusOf rx)).complete
  | .err e => s.raise (.transportError e)

/-- The answer to a status read of `wait_ready` (R93 to R96). -/
def afterPoll (s : State) : Answer → State
  | .err e => s.loseWrite.raise (.transportError e)
  | .ok rx =>
    if busy (statusOf rx) then
      if attemptsLeft s.cfg.maxAttempts s.attempt then
        { s with
          status := statusOf rx
          attempt := s.attempt + 1
          ivlCnt := s.cfg.intervalTicks
          st := .pollWait }
      else ((({ s with status := statusOf rx }).loseWrite).emit .timeout 0x00).raise .timeout
    else ({ s with status := statusOf rx }).complete

/-- The answer to the READ message (R116): the data as delivered, or any bytes and the error. -/
def afterRead (s : State) : Answer → State
  | .ok rx => ({ s with rbuf := rx }).complete
  | .err e =>
    ({ s with rbuf := anyBytes (Config.anyReadByte s.draws) s.len.toNat }).raise (.transportError e)

/-- The answer to the WRITE message (R128): enter `wait_ready` (R92), or the error. -/
def afterWrite (s : State) : Answer → State
  | .ok _ => { s with attempt := 0, st := .pollRdsr }
  | .err e => s.raise (.transportError e)

/-- WREN (R110), outstanding in `S_WR_WREN`. -/
def execWren (s : State) : Result :=
  if s.st = .wrWren then busStep s wrenCall afterWren else .next s

/-- RDSR (R90), outstanding in `S_PROBE` (R141) and in `S_POLL_RDSR` (R92). -/
def execRdsr (s : State) : Result :=
  if s.st = .probe then busStep s rdsrCall afterProbe
  else if s.st = .pollRdsr then busStep s rdsrCall afterPoll
  else .next s

/-- READ (R116), outstanding in `S_RD_XFER` with the address field of `addr` (R64). -/
def execRead (a : Addr) (s : State) : Result :=
  if s.st = .rdXfer ∧ a = s.addr then busStep s (readCall a s.len.toNat) afterRead else .next s

/-- WRITE (R128), outstanding in `S_WR_XFER` with the address field of `addr` (R64); the data is `wbuf`. -/
def execWrite (a : Addr) (s : State) : Result :=
  if s.st = .wrXfer ∧ a = s.addr then busStep s (writeCall a s.wbuf) afterWrite else .next s

end Sys2Proof.Machine
end

