-- ==== Sys2Proof/Machine/Requests.lean ====
section
/-! DEFINITION. The four requests: acceptance with all validation in one step (R150, R151). -/

namespace Sys2Proof.Machine

/-- Validation of a read (R115). -/
def beginRead (addr : Addr) (len : Len) (s : State) : State :=
  if inArray addr len then { s with addr := addr, len := len, st := .rdXfer }
  else (s.emit .oobRead 0x00).raise .invalidArgument

/-- Validation of a write (R125): check 1 before check 2, each short-circuiting; the data is captured here. -/
def beginWrite (addr : Addr) (len : Len) (s : State) : State :=
  if inArray addr len then
    if fitsPage len then
      { s with addr := addr, len := len, wbuf := captureData s.inp.wdata len.toNat, st := .wrWren }
    else s.raise .invalidArgument
  else (s.emit .oobWrite 0x00).raise .invalidArgument

/-- REQ_ATTACH (R140): the lower 48 bits are ignored (R71). -/
def execReqAttach (_ignored : BitVec 48) (s : State) : Result :=
  acceptRequest s .attach fun t => { t with st := .probe }

/-- REQ_READ (R115). -/
def execReqRead (addr : Addr) (len : Len) (s : State) : Result :=
  acceptRequest s .read (beginRead addr len)

/-- REQ_WRITE (R125). -/
def execReqWrite (addr : Addr) (len : Len) (s : State) : Result :=
  acceptRequest s .write (beginWrite addr len)

/-- REQ_DETACH (R142): no bus call, always `OK`; the lower 48 bits are ignored (R71). -/
def execReqDetach (_ignored : BitVec 48) (s : State) : Result :=
  acceptRequest s .detach fun t => (t.emit .detach 0x00).complete

end Sys2Proof.Machine
end

