-- ==== Sys2Proof/Machine/Dispatch.lean ====
section
/-! DEFINITION. The meaning of every instruction: one arm per constructor of Instr. -/

namespace Sys2Proof.Machine

def exec (i : Instr) (s : State) : Host.Outcome State Fault Refusal :=
  match i with
  | .wren => Sys2Proof.Machine.execWren s
  | .rdsr => Sys2Proof.Machine.execRdsr s
  | .read a => Sys2Proof.Machine.execRead a s
  | .write a => Sys2Proof.Machine.execWrite a s
  | .reqAttach x => Sys2Proof.Machine.execReqAttach x s
  | .reqRead addr len => Sys2Proof.Machine.execReqRead addr len s
  | .reqWrite addr len => Sys2Proof.Machine.execReqWrite addr len s
  | .reqDetach x => Sys2Proof.Machine.execReqDetach x s

end Sys2Proof.Machine
end

