-- ==== Sys2Proof/Machine/Fetch.lean ====
section
/-! DEFINITION. Where the next instruction comes from: the request port in the two resting states, the framer in the five
states with a call outstanding (R150, R153); what happens in a step that runs no instruction; and how an instruction is
placed there from outside (log 15). -/

namespace Sys2Proof.Machine

/-- The bits of the instruction this step runs. A reset step runs none (R200). -/
def fetch (s : State) : Option Raw :=
  if s.inp.rst then none
  else
    match s.st with
    | .detached => s.inp.req.map Raw.word
    | .idle => s.inp.req.map Raw.word
    | .probe => s.outstandingHeader.map Raw.frame
    | .rdXfer => s.outstandingHeader.map Raw.frame
    | .wrWren => s.outstandingHeader.map Raw.frame
    | .wrXfer => s.outstandingHeader.map Raw.frame
    | .pollRdsr => s.outstandingHeader.map Raw.frame
    | .pollWait => none
    | .respond => none

/-- A step that runs no instruction: reset above all (R176), a tick (R101), the response taken (R152), or waiting (R155). A tick
in any other state does nothing (R101). -/
def idleStep (s : State) : State :=
  if s.inp.rst then s.resetEvent
  else
    match s.st with
    | .pollWait => if s.inp.tick then s.countTick else s
    | .respond => if s.inp.rspReady then s.deliverResponse else s
    | _ => s

/-- The resting state that accepts a request (R150). -/
def restingPhase : ReqOp → Phase
  | .attach => .detached
  | .read => .idle
  | .write => .idle
  | .detach => .idle

/-- The state a status read is placed in: the poll's if the machine is there, else the probe. -/
def statusPhase : Phase → Phase
  | .pollRdsr => .pollRdsr
  | _ => .probe

/-- A request word on the port, in the state that accepts it. -/
def State.placeWord (s : State) (w : ReqWord) : State :=
  { s with
    st := restingPhase (ReqOp.ofCode (w.extractLsb' 48 2))
    inp := { s.inp with rst := false, req := some w } }

/-- The state and registers whose outstanding command is `i`; a request has none. -/
def State.placeCommand (s : State) (i : Instr) : State :=
  match i with
  | .wren => { s with st := .wrWren }
  | .rdsr => { s with st := statusPhase s.st }
  | .read a => { s with st := .rdXfer, addr := a }
  | .write a => { s with st := .wrXfer, addr := a }
  | .reqAttach _ => s
  | .reqRead _ _ => s
  | .reqWrite _ _ => s
  | .reqDetach _ => s

/-- The bus command with header `bs`, outstanding, and a transport that answers it `Ok` with bytes nothing fixes; bytes that
are no header leave the state as it is: the sequencer never emits them (R67). -/
def State.placeFrame (s : State) (bs : List Byte) : State :=
  match decodeFrame bs with
  | .error _ => s
  | .ok (i, _) =>
    let t := s.placeCommand i
    { t with inp := { t.inp with rst := false, bus := some (.ok []) } }

/-- The bits of a table row, placed where the next step fetches. -/
def State.placeTableWord (s : State) (nbits w : Nat) : State :=
  match rawOfTable nbits w with
  | none => s
  | some (.word r) => s.placeWord r
  | some (.frame bs) => s.placeFrame bs

end Sys2Proof.Machine
end

