-- ==== Sys2Proof/Machine/Step.lean ====
section
/-! DEFINITION. One step: the enabled event of the state (R4, R11), then the input ports of the next step. -/

namespace Sys2Proof.Machine

/-- One step of the machine. -/
def step (s : State) : Host.Outcome State Fault Refusal :=
  match fetch s with
  | none => .next (idleStep s).sample
  | some raw =>
    match decode raw with
    | .ok i => Result.thenDo (exec i s) State.sample
    | .error _ => .fault .undecodable

/-- `s` with a table row's bits where `step` fetches its next instruction (log 15). -/
def State.withFetchWord (s : State) (nbits w : Nat) : State := s.placeTableWord nbits w

end Sys2Proof.Machine
end

