-- ==== Sys2Proof/Machine/Ports.lean ====
section
/-! DEFINITION. The output ports of 10_state.md R31, as functions of the state; the two streams that a step emits, as
functions of the states before and after it (log 19). -/

namespace Sys2Proof.Machine

/-- `req_ready`: high exactly when the presented op is accepted now (R150); a reset step accepts nothing (R200). -/
def State.reqReady (s : State) : Bool :=
  match s.inp.req with
  | none => false
  | some w => !s.inp.rst && accepts s.st (ReqOp.ofCode (w.extractLsb' 48 2))

/-- `rsp_valid`: high exactly in `S_RESPOND`. -/
def State.rspValid (s : State) : Bool := decide (s.st = .respond)

/-- `rsp_code`. -/
def State.rspCode (s : State) : BitVec 2 := s.res.code

/-- `rsp_terr`, meaningful only with `TRANSPORT_ERROR`. -/
def State.rspTerr (s : State) : TErr := s.terr

/-- `bt_call_valid`: a call is outstanding (R153). -/
def State.btCallValid (s : State) : Bool := s.outstandingCall.isSome

/-- `bt_kind`: 0 = send, 1 = transceive. -/
def Call.kind : Call → BitVec 1
  | .send _ => 0
  | .transceive _ => 1

/-- The transfer descriptors of a call; a plain `send` is one transfer. -/
def Call.descs : Call → List Desc
  | .send bs => [.tx bs]
  | .transceive ds => ds

/-- `bt_ndesc`: the number of transfer descriptors, 1 or 2. -/
def Call.ndesc (c : Call) : BitVec 2 := BitVec.ofNat 2 c.descs.length

/-- `bt_d*_dir`: 0 = send, 1 = receive. -/
def Desc.dir : Desc → BitVec 1
  | .tx _ => 0
  | .rx _ => 1

/-- The byte count of a descriptor. -/
def Desc.count : Desc → Nat
  | .tx bs => bs.length
  | .rx n => n

/-- `bt_d*_n`: the byte count on a port of `LEN_W` bits. -/
def Desc.countPort (d : Desc) : Len := BitVec.ofNat 32 d.count

/-- The bytes a descriptor sends. -/
def Desc.txBytes : Desc → List Byte
  | .tx bs => bs
  | .rx _ => []

/-- `bt_tx_byte` over the call: the bytes of the send descriptors, in order. -/
def Call.txBytes (c : Call) : List Byte := c.descs.flatMap Desc.txBytes

/-! The ports of the outstanding call. They have a value while `bt_call_valid` is high, and a descriptor's ports while the call
has that descriptor; R31 says nothing of them otherwise (log 19). -/

/-- `bt_kind`. -/
def State.btKind (s : State) : Option (BitVec 1) := s.outstandingCall.map Call.kind

/-- `bt_ndesc`. -/
def State.btNdesc (s : State) : Option (BitVec 2) := s.outstandingCall.map Call.ndesc

/-- Descriptor `i` of the outstanding call. -/
def State.btDesc (s : State) (i : Nat) : Option Desc := s.outstandingCall.bind fun c => c.descs[i]?

/-- `bt_d0_dir`. -/
def State.btD0Dir (s : State) : Option (BitVec 1) := (s.btDesc 0).map Desc.dir

/-- `bt_d0_n`. -/
def State.btD0N (s : State) : Option Len := (s.btDesc 0).map Desc.countPort

/-- `bt_d1_dir`. -/
def State.btD1Dir (s : State) : Option (BitVec 1) := (s.btDesc 1).map Desc.dir

/-- `bt_d1_n`. -/
def State.btD1N (s : State) : Option Len := (s.btDesc 1).map Desc.countPort

/-- `bt_tx_byte`, over the whole call. -/
def State.btTxBytes (s : State) : Option (List Byte) := s.outstandingCall.map Call.txBytes

/-- The Device Handle exists (R28): from the `Respond` step of a successful attach to the acceptance of a detach. -/
def State.handleExists (s : State) : Bool :=
  match s.st with
  | .detached => false
  | .probe => false
  | .respond => decide (s.op ≠ .attach) && decide (s.op ≠ .detach)
  | .idle => true
  | .rdXfer => true
  | .wrWren => true
  | .wrXfer => true
  | .pollRdsr => true
  | .pollWait => true

/-- `diag_valid` with `diag_code`, `diag_arg` in the step from `s` to `t`: the events it added. -/
def diagEmitted (s t : State) : List DiagEvent := t.diagLog.drop s.diagLog.length

/-- `rd_valid`, `rd_byte` in the step from `s` to `t`: the bytes a READ received, in order. -/
def readStream (s t : State) : List Byte :=
  if s.st = .rdXfer ∧ t.st = .respond then t.rbuf else []

end Sys2Proof.Machine
end

