-- ==== Sys2Proof/WellFormed.lean ====
section
/-! DEFINITION. The checks a configured block must pass (00_scope.md R7) and the well-formedness of an instruction. -/

namespace Sys2Proof

/-- The numeric parameters that rule R7 relates, as one record. -/
structure Params where
  totalSize : Nat
  pageSize : Nat
  busyMask : Byte
  opcRead : Byte
  opcWrite : Byte
  opcWren : Byte
  opcRdsr : Byte
  addrW : Nat
  lenW : Nat
  attW : Nat
  maxAttempts : Nat
  deriving DecidableEq, Repr

/-- The values the machine is built with (R5, R6) and an instance's `MAX_ATTEMPTS`. -/
def Params.ofConfig (c : Config) : Params where
  totalSize := Config.totalSize
  pageSize := Config.pageSize
  busyMask := Config.busyMask
  opcRead := Config.opcRead
  opcWrite := Config.opcWrite
  opcWren := Config.opcWren
  opcRdsr := Config.opcRdsr
  addrW := Config.addrW
  lenW := Config.lenW
  attW := Config.attW
  maxAttempts := c.maxAttempts

/-- Rule R7, and the width rule of `ATT_W` in R6: every constraint between the parameters. -/
def Params.wf (p : Params) : Bool :=
  decide (1 ≤ p.maxAttempts) && decide (1 ≤ p.pageSize) && decide (p.pageSize ≤ p.totalSize)
    && decide (p.busyMask ≠ 0)
    && decide ([p.opcRead, p.opcWrite, p.opcWren, p.opcRdsr].Nodup)
    && decide (16 ≤ p.addrW) && decide (p.totalSize < 2 ^ p.lenW) && decide (p.maxAttempts < 2 ^ p.attW)

/-- An instance is legal when its parameters meet R7. -/
def Config.wf (c : Config) : Bool := (Params.ofConfig c).wf

/-- Well-formedness of an instruction. Every field has the width its encoding gives it by type, no op code and no field
value is reserved (R73), and the ignored bits take any value (R71): so every term is well-formed. A request whose range
is out of bounds is a legal encoding that the machine rejects (R73, R115, R125). -/
def Instr.wf : Instr → Bool
  | .wren => true
  | .rdsr => true
  | .read _ => true
  | .write _ => true
  | .reqAttach _ => true
  | .reqRead _ _ => true
  | .reqWrite _ _ => true
  | .reqDetach _ => true

end Sys2Proof
end

