-- ==== Sys2Proof/Safety.lean ====
section
/-! DEFINITION. What counts as a safe state and a safe run, in the terms the statements use: the machine's invariant, the
legal bus logs, the progress of a write, the registers a state depends on, and scripts of input ports. -/

namespace Sys2Proof.Safety

open Machine

/-! ### The invariant -/

/-- The operands of an accepted write (R125). -/
def WriteOperands (s : State) : Prop :=
  s.addr.toNat + s.len.toNat ≤ Config.totalSize ∧ s.len.toNat ≤ Config.pageSize ∧ s.wbuf.length = s.len.toNat

/-- Which results each request can have (R174, R176), and what then holds of its operands. -/
def ResponseInv (s : State) : Prop :=
  match s.op with
  | .attach => s.res = .ok ∨ s.res = .transportError
  | .detach => s.res = .ok
  | .read =>
    s.res ≠ .timeout
      ∧ (s.res ≠ .invalidArgument →
          s.addr.toNat + s.len.toNat ≤ Config.totalSize ∧ s.rbuf.length = s.len.toNat)
  | .write => s.res ≠ .invalidArgument → WriteOperands s

/-- What each state of the machine guarantees about the registers (R12 to R21, R97). -/
def PhaseInv (s : State) : Prop :=
  match s.st with
  | .detached => True
  | .idle => True
  | .probe => s.op = .attach
  | .rdXfer => s.op = .read ∧ s.addr.toNat + s.len.toNat ≤ Config.totalSize
  | .wrWren => s.op = .write ∧ WriteOperands s
  | .wrXfer => s.op = .write ∧ WriteOperands s
  | .pollRdsr => s.op = .write ∧ WriteOperands s ∧ s.attempt.toNat < s.cfg.maxAttempts
  | .pollWait =>
    s.op = .write ∧ WriteOperands s ∧ 1 ≤ s.attempt.toNat ∧ s.attempt.toNat < s.cfg.maxAttempts
      ∧ s.ivlCnt ≤ s.cfg.intervalTicks
  | .respond => ResponseInv s

/-- The machine's invariant: legal parameters (R7), the array in its canonical form (log 13), the timer within `IVL_W` bits (R6,
R19), and each state's own. -/
def MachineInv (s : State) : Prop :=
  s.cfg.wf = true ∧ Memory.wf s.chip.mem = true ∧ s.ivlCnt < 2 ^ ivlW s.cfg ∧ PhaseInv s

/-! ### The bus log -/

/-- The four calls the sequencer can make (R63, R67). -/
def LegalCall (c : Call) : Prop :=
  c = .send [0x06]
    ∨ c = .transceive [.tx [0x05], .rx 1]
    ∨ (∃ a : Addr, ∃ n, c = .transceive [.tx [0x03, a.extractLsb' 8 8, a.extractLsb' 0 8], .rx n])
    ∨ (∃ a : Addr, ∃ d, c = .transceive [.tx [0x02, a.extractLsb' 8 8, a.extractLsb' 0 8], .tx d])

/-- Every call is legal, and every `Ok` answer has the number of bytes the call asks for (R187). -/
def LogLegal (log : List BusEntry) : Prop :=
  ∀ e ∈ log, LegalCall e.call ∧ ∀ rx, e.answer = .ok rx → rx.length = e.call.rxCount

/-- A successful WREN, RDSR and WRITE as log entries. -/
def wrenEntry : BusEntry := ⟨wrenCall, .ok []⟩
def rdsrEntry (b : Byte) : BusEntry := ⟨rdsrCall, .ok [b]⟩
def writeEntry (a : Addr) (d : List Byte) : BusEntry := ⟨writeCall a d, .ok []⟩

/-- Every WRITE message in the log comes right after a successful WREN (R112). -/
def WrenBeforeWrite (log : List BusEntry) : Prop :=
  ∀ p a d ans rest, log = p ++ ⟨writeCall a d, ans⟩ :: rest → ∃ q, p = q ++ [wrenEntry]

/-- The calls of a write so far: WREN, WRITE, and one status read for each byte of `bs` (R50, R134). -/
def writeTrace (s : State) (bs : List Byte) : List BusEntry :=
  [wrenEntry, writeEntry s.addr s.wbuf] ++ bs.map rdsrEntry

/-- How far the log is in each state of a write: what R50, R97 and R130 say of the calls made. -/
def WriteProgress (s : State) : Prop :=
  match s.st with
  | .wrXfer => ∃ p, s.busLog = p ++ [wrenEntry]
  | .pollRdsr =>
    ∃ p bs, s.busLog = p ++ writeTrace s bs ∧ bs.length = s.attempt.toNat ∧ ∀ b ∈ bs, busy b = true
  | .pollWait =>
    ∃ p bs, s.busLog = p ++ writeTrace s bs ∧ bs.length = s.attempt.toNat ∧ ∀ b ∈ bs, busy b = true
  | .respond =>
    s.op = .write →
      (s.res = .ok →
          ∃ p bs b, s.busLog = p ++ writeTrace s (bs ++ [b]) ∧ bs.length < s.cfg.maxAttempts
            ∧ (∀ x ∈ bs, busy x = true) ∧ busy b = false)
        ∧ (s.res = .timeout →
          ∃ p bs, s.busLog = p ++ writeTrace s bs ∧ bs.length = s.cfg.maxAttempts ∧ ∀ x ∈ bs, busy x = true)
  | .detached => True
  | .probe => True
  | .idle => True
  | .rdXfer => True
  | .wrWren => True

/-- The port presents a request whose range fails check 1, on the exact sum (R115, R125). -/
def PortOutOfRange (s : State) : Prop :=
  ∃ w, s.inp.req = some w ∧ 262144 < (w.extractLsb' 32 16).toNat + (w.extractLsb' 0 32).toNat

/-! ### What a state depends on -/

/-- The registers a later step can still read, state by state (R29), agree. -/
def SameLiveRegs (s t : State) : Prop :=
  match s.st with
  | .detached => True
  | .idle => True
  | .probe => s.op = t.op
  | .rdXfer => s.op = t.op ∧ s.addr = t.addr ∧ s.len = t.len
  | .wrWren => s.op = t.op ∧ s.addr = t.addr ∧ s.len = t.len ∧ s.wbuf = t.wbuf
  | .wrXfer => s.op = t.op ∧ s.addr = t.addr ∧ s.len = t.len ∧ s.wbuf = t.wbuf
  | .pollRdsr => s.op = t.op ∧ s.addr = t.addr ∧ s.len = t.len ∧ s.attempt = t.attempt
  | .pollWait =>
    s.op = t.op ∧ s.addr = t.addr ∧ s.len = t.len ∧ s.attempt = t.attempt ∧ s.ivlCnt = t.ivlCnt
  | .respond =>
    s.op = t.op ∧ s.res = t.res ∧ (s.res = .transportError → s.terr = t.terr)
      ∧ (s.op = .read → s.res = .ok → s.rbuf = t.rbuf)

/-- Two machines that look the same from outside and agree on the registers that still matter. -/
def SameLive (s t : State) : Prop :=
  s.cfg = t.cfg ∧ s.st = t.st ∧ s.chip = t.chip ∧ s.busLog = t.busLog ∧ s.diagLog = t.diagLog
    ∧ s.rspLog = t.rspLog ∧ s.inp = t.inp ∧ s.script = t.script ∧ s.draws = t.draws ∧ SameLiveRegs s t

/-! ### Scripts of input ports -/

/-- The transport answers. -/
def answering (a : Answer) : Inputs := { Inputs.quiet with bus := some a }

/-- One timer tick. -/
def ticking : Inputs := { Inputs.quiet with tick := true }

/-- The caller takes the response. -/
def taking : Inputs := { Inputs.quiet with rspReady := true }

/-- The caller presents a request word with its data. -/
def requesting (w : ReqWord) (d : WData) : Inputs := { Inputs.quiet with req := some w, wdata := d }

/-- The ports of the coming steps, the first of them now. -/
def withInputs (s : State) : List Inputs → State
  | [] => s
  | x :: rest => { s with inp := x, script := rest }

/-- The ports of a `wait_ready` whose status reads get these answers: between two answers the ticks of one wait, of which the
last makes the transition (R98, R101). -/
def pollScript (ticks : Nat) : List Answer → List Inputs
  | [] => []
  | [a] => [answering a]
  | a :: b :: rest => answering a :: (List.replicate (ticks + 1) ticking ++ pollScript ticks (b :: rest))

/-- So many steps, stopping at the first fault or refusal. -/
def runSteps : Nat → State → Host.Outcome State Fault Refusal
  | 0, s => .next s
  | n + 1, s =>
    match step s with
    | .next t => runSteps n t
    | .fault e => .fault e
    | .refused e => .refused e

/-- Runs the machine over a script, one step a line. -/
def runScript (s : State) (is : List Inputs) : Host.Outcome State Fault Refusal :=
  runSteps is.length (withInputs s is)

/-! ### Outcomes and transitions -/

/-- The outcome is a next state and that state is `u`, but for the chip and the draw counter; the chip in State is as in `s` when
the oracle stands behind the transport. -/
def CompletesAs (s : State) (o : Host.Outcome State Fault Refusal) (u : State) : Prop :=
  ∃ t, o = .next t ∧ t = { u with chip := t.chip, draws := t.draws } ∧ (s.cfg.backend = .oracle → t.chip = s.chip)

/-- The same where a command ends without a transport error: `terr` has no specified value then (R21). -/
def RespondsAs (s : State) (o : Host.Outcome State Fault Refusal) (u : State) : Prop :=
  ∃ t, o = .next t ∧ t = { u with terr := t.terr, chip := t.chip, draws := t.draws }
    ∧ (s.cfg.backend = .oracle → t.chip = s.chip)

/-- The outcome of a request that is answered at once: a next state, `u` but for `terr`, which has no specified value (R21), and
the draw counter. -/
def AnsweredAs (o : Host.Outcome State Fault Refusal) (u : State) : Prop :=
  ∃ t, o = .next t ∧ t = { u with terr := t.terr, draws := t.draws }

/-- The states that may follow a state in one step without reset, other than itself (R154). -/
def successors : Phase → List Phase
  | .detached => [.probe]
  | .probe => [.respond]
  | .idle => [.respond, .rdXfer, .wrWren]
  | .rdXfer => [.respond]
  | .wrWren => [.wrXfer, .respond]
  | .wrXfer => [.pollRdsr, .respond]
  | .pollRdsr => [.respond, .pollWait]
  | .pollWait => [.pollRdsr]
  | .respond => [.detached, .idle]

/-- Running the script from `s` ends in a next state with this state register, these additions to the three logs. -/
def RunsTo (s : State) (is : List Inputs) (st : Phase) (calls : List BusEntry) (diags : List DiagEvent)
    (rsps : List Response) : Prop :=
  ∃ t, runScript s is = .next t ∧ t.st = st ∧ t.busLog = s.busLog ++ calls ∧ t.diagLog = s.diagLog ++ diags
    ∧ t.rspLog = s.rspLog ++ rsps ∧ t.cfg = s.cfg

end Sys2Proof.Safety
end

