-- ==== Sys2Proof/Certificates/Slice0/Obligations.lean ====
section
/-! DEFINITION. The statements for the provers. -/

open Sys2Proof Sys2Proof.Machine Sys2Proof.Safety

/-! ### Encodings -/

/-- R80: three bytes, opcode, address high byte, address low byte, for any address width of 16 or more; bits above 15 are
dropped. -/
def Obligations.FrameAddressBytes : Prop :=
  ∀ (w : Nat) (opc : Byte) (addr : BitVec w), 16 ≤ w →
    frameAddress opc addr = [opc, BitVec.ofNat 8 (addr.toNat / 256), BitVec.ofNat 8 addr.toNat]

/-- R83: two addresses make the same header exactly when they agree in their low 16 bits. -/
def Obligations.HeadersAliasByLowBits : Prop :=
  ∀ (w v : Nat) (opc : Byte) (a : BitVec w) (b : BitVec v), 16 ≤ w → 16 ≤ v →
    (frameAddress opc a = frameAddress opc b ↔ a.toNat % 65536 = b.toNat % 65536)

/-- Every instruction's bits are read back as that instruction, with every operand at every value. -/
def Obligations.DecodeOfEncode : Prop :=
  ∀ i : Instr, decode (encode i) = .ok i

/-- Every request word is some request (R73), and the decoder drops no bit of it. That attach and detach keep their 48 ignored
bits as an operand is the model's reading (log 17, DEDUCED); R71 says no meaning looks at them. -/
def Obligations.RequestWordsReadWhole : Prop :=
  ∀ w : ReqWord, encode (decodeRequest w) = .word w

/-- R65, R66: what the frame decoder accepts is the header of the instruction it answers, followed by the bytes it leaves over;
it accepts a first byte only if it is one of the four opcodes, and it accepts each of them with two bytes after it. -/
def Obligations.FramesReadWhole : Prop :=
  (∀ (bs : List Byte) (i : Instr) (rest : List Byte), decodeFrame bs = .ok (i, rest) →
    ∃ h, encode i = .frame h ∧ bs = h ++ rest)
    ∧ (∀ (opc : Byte) (rest : List Byte), opc ≠ 0x02 → opc ≠ 0x03 → opc ≠ 0x05 → opc ≠ 0x06 →
        decodeFrame (opc :: rest) = .error (.unknownOpcode opc))
    ∧ (∀ opc hi lo : Byte, opc = 0x02 ∨ opc = 0x03 ∨ opc = 0x05 ∨ opc = 0x06 →
        ∃ i rest, decodeFrame [opc, hi, lo] = .ok (i, rest))

/-- Each instruction's row of the opcode table, read at its own width, is that instruction. How the table numbers a row is the
model's reading (log 17, DEDUCED). -/
def Obligations.TableRowsDecode : Prop :=
  ∀ i : Instr, decodeTableWord i.width (tableNumber i) = some i

/-- Words of the spec's own examples decode to what the spec says they are (95_test_vectors.md F3, F5, F9, S8, V12, X15). -/
def Obligations.SpecWordsDecode : Prop :=
  decode (.frame [0x06]) = .ok .wren
    ∧ decode (.frame [0x05]) = .ok .rdsr
    ∧ decode (.frame [0x03, 0x12, 0x34]) = .ok (.read 0x1234)
    ∧ decode (.frame [0x02, 0x01, 0x00]) = .ok (.write 0x0100)
    ∧ decode (.word 0x0FFFFFFFFFFFF) = .ok (.reqAttach 0xFFFFFFFFFFFF)
    ∧ decode (.word 0x101000000000A) = .ok (.reqRead 0x0100 10)
    ∧ decode (.word 0x2FFFFFFFFFFFF) = .ok (.reqWrite 0xFFFF 0xFFFFFFFF)
    ∧ decode (.word 0x3000000000000) = .ok (.reqDetach 0)

/-! ### Parameters and flags -/

/-- R7, and R6 for `ATT_W`: the checks a configured block must pass are exactly these, and the source's values pass them. -/
def Obligations.ParameterChecks : Prop :=
  (∀ p : Params, p.wf = true ↔
    1 ≤ p.maxAttempts ∧ 1 ≤ p.pageSize ∧ p.pageSize ≤ p.totalSize ∧ p.busyMask ≠ 0
      ∧ (p.opcRead ≠ p.opcWrite ∧ p.opcRead ≠ p.opcWren ∧ p.opcRead ≠ p.opcRdsr
        ∧ p.opcWrite ≠ p.opcWren ∧ p.opcWrite ≠ p.opcRdsr ∧ p.opcWren ≠ p.opcRdsr)
      ∧ 16 ≤ p.addrW ∧ p.totalSize < 2 ^ p.lenW ∧ p.maxAttempts < 2 ^ p.attW)
    ∧ (Params.ofConfig Config.atReset).wf = true

/-- R91: busy is bit 0 of the status byte and no other bit. -/
def Obligations.BusyIsBitZero : Prop :=
  (∀ s : Byte, busy s = true ↔ s &&& 0x01 ≠ 0) ∧ ∀ s : Byte, busy s = s.getLsbD 0

/-! ### The step -/

/-- A step runs the instruction it fetched: exec of it, then the input ports of the next step. -/
def Obligations.StepRunsDecoded : Prop :=
  ∀ (s : State) (raw : Raw) (i : Instr), fetch s = some raw → decode raw = .ok i →
    step s = Result.thenDo (exec i s) State.sample

/-- In each of the five states with a call outstanding, the step fetches the command of exactly that call, and when the
transport answers, the call and its answer are the one new entry of the bus log. -/
def Obligations.OutstandingCallIsMade : Prop :=
  ∀ (s : State) (call : Call), s.inp.rst = false → s.outstandingCall = some call →
    ∃ raw i, fetch s = some raw ∧ decode raw = .ok i
      ∧ (∀ a : Answer, s.answerTo call = some a → ∃ t, exec i s = .next t ∧ t.busLog = s.busLog ++ [⟨call, a⟩])
      ∧ (s.answerTo call = none → exec i s = .next s)

/-- No step ends in a fault or a refusal: every request word and every header the framer builds is an instruction, and the
block has no stop. -/
def Obligations.EveryStepAnswersNext : Prop :=
  ∀ s : State, ∃ t, step s = .next t

/-! ### Requests -/

/-- R140: no validation, no diagnostic; in any other state the attach is not accepted. -/
def Obligations.AttachIsAccepted : Prop :=
  ∀ (x : BitVec 48) (s : State),
    (s.st = .detached → exec (.reqAttach x) s = .next { s with op := .attach, st := .probe })
    ∧ (s.st ≠ .detached → exec (.reqAttach x) s = .next s)

/-- R115: the exact sum decides; what is rejected latches nothing but `op` (and `terr` has no specified value then, R21). -/
def Obligations.ReadIsValidated : Prop :=
  ∀ (addr : Addr) (len : Len) (s : State), s.st = .idle →
    (addr.toNat + len.toNat ≤ 262144 →
      exec (.reqRead addr len) s = .next { s with op := .read, addr := addr, len := len, st := .rdXfer })
    ∧ (262144 < addr.toNat + len.toNat →
      AnsweredAs (exec (.reqRead addr len) s)
        { s with
          op := .read
          res := .invalidArgument
          st := .respond
          diagLog := s.diagLog ++ [⟨.oobRead, 0x00⟩] })

/-- R125: check 1 before check 2; what is accepted captures exactly `len` bytes of the data port. -/
def Obligations.WriteIsValidated : Prop :=
  ∀ (addr : Addr) (len : Len) (s : State), s.st = .idle →
    (262144 < addr.toNat + len.toNat →
      AnsweredAs (exec (.reqWrite addr len) s)
        { s with
          op := .write
          res := .invalidArgument
          st := .respond
          diagLog := s.diagLog ++ [⟨.oobWrite, 0x00⟩] })
    ∧ (addr.toNat + len.toNat ≤ 262144 → 256 < len.toNat →
      AnsweredAs (exec (.reqWrite addr len) s) { s with op := .write, res := .invalidArgument, st := .respond })
    ∧ (addr.toNat + len.toNat ≤ 262144 → len.toNat ≤ 256 →
      ∃ data : List Byte, data.length = len.toNat
        ∧ (∀ i : Nat, i < len.toNat → data[i]? = some (BitVec.ofNat 8 (s.inp.wdata.toNat / 2 ^ (8 * i))))
        ∧ exec (.reqWrite addr len) s =
          .next { s with op := .write, addr := addr, len := len, wbuf := data, st := .wrWren })

/-- R142: no bus call, always `OK`; in any other state the detach is not accepted; taking its response leads to `S_DETACHED`. -/
def Obligations.DetachCompletes : Prop :=
  ∀ (x : BitVec 48) (s : State),
    (s.st = .idle →
      AnsweredAs (exec (.reqDetach x) s)
        { s with
          op := .detach
          res := .ok
          st := .respond
          diagLog := s.diagLog ++ [⟨.detach, 0x00⟩] })
    ∧ (s.st ≠ .idle → exec (.reqDetach x) s = .next s)
    ∧ (s.st = .respond → s.op = .detach → s.inp.rst = false → s.inp.rspReady = true →
      ∃ t, step s = .next t ∧ t.st = .detached)

/-- R150: the port says ready exactly where the table accepts the presented op; a request that is not accepted has no step, and
in a state that accepts nothing the request port makes no difference. -/
def Obligations.UnacceptedRequestsWait : Prop :=
  (∀ (s : State) (w : ReqWord), s.inp.rst = false → s.inp.req = some w →
    (s.reqReady = true ↔
      (s.st = .detached ∧ w.extractLsb' 48 2 = 0b00) ∨ (s.st = .idle ∧ w.extractLsb' 48 2 ≠ 0b00)))
    ∧ (∀ (s : State) (w : ReqWord), s.inp.rst = false → s.inp.req = some w → s.st = .detached ∨ s.st = .idle →
      s.reqReady = false →
      step s = .next s.sample)
    ∧ (∀ (s : State) (w : Option ReqWord) (d : WData), s.st ≠ .detached → s.st ≠ .idle →
      step { s with inp := { s.inp with req := w, wdata := d } } = step s)

/-! ### Bus commands -/

/-- R141, the transport answers: the attach succeeds whatever the byte. -/
def Obligations.ProbeSucceeds : Prop :=
  ∀ (s : State) (b : Byte), s.st = .probe → s.answerTo rdsrCall = some (.ok [b]) →
    RespondsAs s (exec .rdsr s)
      { s with
        status := b
        res := .ok
        st := .respond
        busLog := s.busLog ++ [⟨.transceive [.tx [0x05], .rx 1], .ok [b]⟩]
        diagLog := s.diagLog ++ [⟨.attach, b⟩] }

/-- R141, the transport fails: no diagnostic. -/
def Obligations.ProbeFails : Prop :=
  ∀ (s : State) (e : TErr), s.st = .probe → s.answerTo rdsrCall = some (.err e) →
    CompletesAs s (exec .rdsr s)
      { s with
        res := .transportError
        terr := e
        st := .respond
        busLog := s.busLog ++ [⟨.transceive [.tx [0x05], .rx 1], .err e⟩] }

/-- R110, R111: on success straight to the WRITE message, on failure the transport's error. -/
def Obligations.WrenGoesOnOrFails : Prop :=
  ∀ s : State, s.st = .wrWren →
    (∀ rx : List Byte, s.inp.bus = some (.ok rx) →
      CompletesAs s (exec .wren s)
        { s with st := .wrXfer, busLog := s.busLog ++ [⟨.send [0x06], .ok []⟩] })
    ∧ (∀ e : TErr, s.inp.bus = some (.err e) →
      CompletesAs s (exec .wren s)
        { s with
          res := .transportError
          terr := e
          st := .respond
          busLog := s.busLog ++ [⟨.send [0x06], .err e⟩] })

/-- R116: the received bytes become `rbuf`; on failure `rbuf` is `len` bytes that nothing fixes. -/
def Obligations.ReadFillsBuffer : Prop :=
  ∀ s : State, s.st = .rdXfer →
    (∀ rx : List Byte, s.answerTo (readCall s.addr s.len.toNat) = some (.ok rx) →
      RespondsAs s (exec (.read s.addr) s)
        { s with
          rbuf := rx
          res := .ok
          st := .respond
          busLog := s.busLog ++
            [⟨.transceive [.tx [0x03, BitVec.ofNat 8 (s.addr.toNat / 256), BitVec.ofNat 8 s.addr.toNat],
              .rx s.len.toNat], .ok rx⟩] })
    ∧ (∀ e : TErr, s.inp.bus = some (.err e) →
      ∃ junk : List Byte, junk.length = s.len.toNat ∧
        CompletesAs s (exec (.read s.addr) s)
          { s with
            rbuf := junk
            res := .transportError
            terr := e
            st := .respond
            busLog := s.busLog ++
              [⟨.transceive [.tx [0x03, BitVec.ofNat 8 (s.addr.toNat / 256), BitVec.ofNat 8 s.addr.toNat],
                .rx s.len.toNat], .err e⟩] })

/-- R128, R92: the message carries the header and `wbuf`; success enters the poll with a fresh count, failure ends the write. -/
def Obligations.WriteEntersPollOrFails : Prop :=
  ∀ s : State, s.st = .wrXfer →
    (∀ rx : List Byte, s.inp.bus = some (.ok rx) →
      CompletesAs s (exec (.write s.addr) s)
        { s with
          attempt := 0
          st := .pollRdsr
          busLog := s.busLog ++
            [⟨.transceive [.tx [0x02, BitVec.ofNat 8 (s.addr.toNat / 256), BitVec.ofNat 8 s.addr.toNat],
              .tx s.wbuf], .ok []⟩] })
    ∧ (∀ e : TErr, s.inp.bus = some (.err e) →
      CompletesAs s (exec (.write s.addr) s)
        { s with
          res := .transportError
          terr := e
          st := .respond
          busLog := s.busLog ++
            [⟨.transceive [.tx [0x02, BitVec.ofNat 8 (s.addr.toNat / 256), BitVec.ofNat 8 s.addr.toNat],
              .tx s.wbuf], .err e⟩] })

/-- R93: an error ends the poll at every attempt. -/
def Obligations.PollErrorAborts : Prop :=
  ∀ (s : State) (e : TErr), s.st = .pollRdsr → s.inp.bus = some (.err e) →
    CompletesAs s (exec .rdsr s)
      { s with
        res := .transportError
        terr := e
        st := .respond
        busLog := s.busLog ++ [⟨.transceive [.tx [0x05], .rx 1], .err e⟩] }

/-- R94: a clear busy bit ends the poll with success at every attempt, the last included. -/
def Obligations.PollReadySucceeds : Prop :=
  ∀ (s : State) (b : Byte), s.st = .pollRdsr → s.answerTo rdsrCall = some (.ok [b]) → b.getLsbD 0 = false →
    RespondsAs s (exec .rdsr s)
      { s with
        status := b
        res := .ok
        st := .respond
        busLog := s.busLog ++ [⟨.transceive [.tx [0x05], .rx 1], .ok [b]⟩] }

/-- R95: a set busy bit before the last attempt loads the timer and waits. -/
def Obligations.PollBusyWaits : Prop :=
  ∀ (s : State) (b : Byte), s.st = .pollRdsr → s.answerTo rdsrCall = some (.ok [b]) → b.getLsbD 0 = true →
    s.attempt.toNat + 1 < s.cfg.maxAttempts →
    CompletesAs s (exec .rdsr s)
      { s with
        status := b
        attempt := s.attempt + 1
        ivlCnt := s.cfg.intervalTicks
        st := .pollWait
        busLog := s.busLog ++ [⟨.transceive [.tx [0x05], .rx 1], .ok [b]⟩] }

/-- R96: a set busy bit on the last attempt is a timeout, with no wait before it. -/
def Obligations.PollBusyTimesOut : Prop :=
  ∀ (s : State) (b : Byte), s.st = .pollRdsr → s.answerTo rdsrCall = some (.ok [b]) → b.getLsbD 0 = true →
    s.cfg.maxAttempts ≤ s.attempt.toNat + 1 →
    RespondsAs s (exec .rdsr s)
      { s with
        status := b
        res := .timeout
        st := .respond
        busLog := s.busLog ++ [⟨.transceive [.tx [0x05], .rx 1], .ok [b]⟩]
        diagLog := s.diagLog ++ [⟨.timeout, 0x00⟩] }

/-- R69: bits 7:1 of the status byte change nothing but the places that hold the byte itself, at a poll and at attach: `status`,
the answer in the bus log and on the port, and at attach the argument of the event. The oracle stands behind the transport
(log 11), so that the port's byte is the answer. -/
def Obligations.StatusUpperBitsIgnored : Prop :=
  ∀ (s : State) (a b : Byte) (t u : State), s.st = .pollRdsr ∨ s.st = .probe → s.cfg.backend = .oracle →
    a.getLsbD 0 = b.getLsbD 0 →
    exec .rdsr { s with inp := { s.inp with bus := some (.ok [a]) } } = .next t →
    exec .rdsr { s with inp := { s.inp with bus := some (.ok [b]) } } = .next u →
    t.status = a ∧ t.busLog = s.busLog ++ [⟨rdsrCall, .ok [a]⟩]
      ∧ u = { t with
          status := b
          busLog := s.busLog ++ [⟨rdsrCall, .ok [b]⟩]
          inp := { s.inp with bus := some (.ok [b]) }
          diagLog := if s.st = .probe then s.diagLog ++ [⟨.attach, b⟩] else t.diagLog }
      ∧ (s.st = .probe → t.diagLog = s.diagLog ++ [⟨.attach, a⟩])

/-- R187, R188: an error reaches the sequencer verbatim whatever stands behind the transport; with the oracle, any bytes of the
right number do; and an `Ok` answer to any of the four calls has exactly the number of bytes the call asks for. -/
def Obligations.AnswersAreTheTransports : Prop :=
  (∀ (s : State) (c : Call) (e : TErr), s.inp.bus = some (.err e) → s.answerTo c = some (.err e))
    ∧ (∀ (s : State) (c : Call) (rx : List Byte), s.cfg.backend = .oracle → s.inp.bus = some (.ok rx) →
      rx.length = c.rxCount →
        s.answerTo c = some (.ok rx))
    ∧ (∀ (s : State) (c : Call) (rx : List Byte), LegalCall c → s.answerTo c = some (.ok rx) →
      rx.length = c.rxCount)

/-- While the transport has not answered, each command waits and nothing changes. -/
def Obligations.UnansweredCommandsWait : Prop :=
  ∀ s : State, s.inp.bus = none →
    exec .wren s = .next s ∧ exec .rdsr s = .next s ∧ ∀ a : Addr, exec (.read a) s = .next s ∧ exec (.write a) s = .next s

/-- The model's choice (log 8): a bus command in a state that does not have it outstanding changes nothing. -/
def Obligations.CommandsOnlyWhereOutstanding : Prop :=
  (∀ s : State, s.st ≠ .wrWren → exec .wren s = .next s)
    ∧ (∀ s : State, s.st ≠ .probe → s.st ≠ .pollRdsr → exec .rdsr s = .next s)
    ∧ (∀ (s : State) (a : Addr), (s.st ≠ .rdXfer ∨ a ≠ s.addr) → exec (.read a) s = .next s)
    ∧ (∀ (s : State) (a : Addr), (s.st ≠ .wrXfer ∨ a ≠ s.addr) → exec (.write a) s = .next s)

/-! ### The other events -/

/-- R101: in `S_POLL_WAIT` a tick counts down or ends the wait and nothing else does anything; in any other state a tick does
nothing. -/
def Obligations.TicksCountTheWait : Prop :=
  (∀ s : State, s.st = .pollWait → s.inp.rst = false → s.inp.tick = true → s.ivlCnt = 0 →
      step s = .next (State.sample { s with st := .pollRdsr }))
    ∧ (∀ s : State, s.st = .pollWait → s.inp.rst = false → s.inp.tick = true → s.ivlCnt ≠ 0 →
      step s = .next (State.sample { s with ivlCnt := s.ivlCnt - 1 }))
    ∧ (∀ s : State, s.st = .pollWait → s.inp.rst = false → s.inp.tick = false → step s = .next s.sample)
    ∧ (∀ (s : State) (b : Bool), s.st ≠ .pollWait → step { s with inp := { s.inp with tick := b } } = step s)

/-- R101: a wait entered with the count at `n` ends with tick number `n + 1` and not before. -/
def Obligations.WaitLastsItsTicks : Prop :=
  ∀ s : State, s.st = .pollWait →
    (∀ k : Nat, k ≤ s.ivlCnt →
      ∃ t, runScript s (List.replicate k ticking) = .next t ∧ t.st = .pollWait ∧ t.ivlCnt = s.ivlCnt - k)
    ∧ ∃ t, runScript s (List.replicate (s.ivlCnt + 1) ticking) = .next t ∧ t.st = .pollRdsr
        ∧ t.attempt = s.attempt ∧ t.busLog = s.busLog

/-- R152: the response as delivered and the state after it; no register but `st` changes; not taken, it stays. -/
def Obligations.ResponseIsDelivered : Prop :=
  (∀ s : State, s.st = .respond → s.inp.rst = false → s.inp.rspReady = true →
      step s =
        .next (State.sample { s with
          st := if s.op = ReqOp.detach then Phase.detached
            else if s.op = ReqOp.attach ∧ s.res ≠ ResultCode.ok then Phase.detached
            else Phase.idle
          rspLog := s.rspLog ++
            [⟨s.op, s.res, if s.res = .transportError then some s.terr else none,
              if s.op = .read ∧ s.res = .ok then some s.rbuf else none⟩] }))
    ∧ (∀ s : State, s.st = .respond → s.inp.rst = false → s.inp.rspReady = false → step s = .next s.sample)

/-- Reset from any state: no handle, no output, empty logs, the parameters and an idle chip untouched, and a request presented in
the reset step makes no difference. -/
def Obligations.ResetEndsEverything : Prop :=
  ∀ s : State, s.inp.rst = true →
    (∃ t, step s = .next t ∧ t.st = .detached ∧ t.busLog = [] ∧ t.diagLog = [] ∧ t.cfg = s.cfg
      ∧ t.rspValid = false ∧ t.btCallValid = false ∧ t.handleExists = false
      ∧ (s.st = .detached ∨ s.st = .idle ∨ s.st = .respond → t.chip = s.chip))
    ∧ ∀ (w : Option ReqWord) (d : WData), step { s with inp := { s.inp with req := w, wdata := d } } = step s

/-- After reset there is no handle, no output is valid, the logs are empty and an attach is the one request the port is ready
for. -/
def Obligations.ResetStateHasNoHandle : Prop :=
  State.reset.st = .detached ∧ State.reset.busLog = [] ∧ State.reset.diagLog = []
    ∧ State.reset.rspValid = false ∧ State.reset.btCallValid = false ∧ State.reset.handleExists = false
    ∧ State.reset.cfg.maxAttempts = 100
    ∧ ∀ p : Inputs, ({ State.reset with inp := p }).reqReady = true ↔
        p.rst = false ∧ ∃ w, p.req = some w ∧ w.extractLsb' 48 2 = 0b00

/-! ### Invariants -/

/-- Every step keeps the machine's invariant: legal parameters, the array in its canonical form, the timer in its width, the
registers of each state in their ranges, each result only where its request can have it. -/
def Obligations.StepKeepsInv : Prop :=
  ∀ s t : State, MachineInv s → step s = .next t → MachineInv t

/-- The invariant holds at reset. -/
def Obligations.ResetHasInv : Prop := MachineInv State.reset

/-- Every step keeps the bus log within the four calls of the spec (R67, R157), with `Ok` answers of the length R187 says; that they
have it whatever the port shows is the model's choice (log 10). -/
def Obligations.StepKeepsLogLegal : Prop :=
  ∀ s t : State, LogLegal s.busLog → step s = .next t → LogLegal t.busLog

/-- R112: every step keeps every WRITE message right behind a successful WREN. -/
def Obligations.StepKeepsWrenBeforeWrite : Prop :=
  ∀ s t : State, WrenBeforeWrite s.busLog → (s.st = .wrXfer → ∃ p, s.busLog = p ++ [wrenEntry]) → step s = .next t →
    WrenBeforeWrite t.busLog ∧ (t.st = .wrXfer → ∃ p, t.busLog = p ++ [wrenEntry])

/-- R50, R97, R130: every step keeps the log of a write at WREN, WRITE, then as many busy status reads as `attempt` counts; a
write that responds `OK` ends in a ready read, and one that responds `TIMEOUT` in `MAX_ATTEMPTS` busy reads. -/
def Obligations.StepKeepsWriteProgress : Prop :=
  ∀ s t : State, MachineInv s → WriteProgress s → step s = .next t → WriteProgress t

/-- R24: no step changes a parameter of the instance. -/
def Obligations.StepKeepsParameters : Prop :=
  ∀ s t : State, step s = .next t → t.cfg = s.cfg

/-! ### Whole-machine rules -/

/-- R154: without reset the state register moves only along the rows of the transition table; with reset to `S_DETACHED`. -/
def Obligations.StateMovesByTheTable : Prop :=
  ∀ s t : State, step s = .next t →
    (s.inp.rst = true → t.st = .detached)
      ∧ (s.inp.rst = false → t.st = s.st ∨ t.st ∈ successors s.st)

/-- R153: a step without reset makes no call or exactly the outstanding one. -/
def Obligations.OneCallPerStep : Prop :=
  ∀ s t : State, s.inp.rst = false → step s = .next t →
    t.busLog = s.busLog
      ∨ ∃ c a, s.outstandingCall = some c ∧ s.answerTo c = some a ∧ t.busLog = s.busLog ++ [⟨c, a⟩]

/-- R152: a response is delivered exactly when the machine leaves `S_RESPOND`, and it is the one that state presents. -/
def Obligations.DeliveredOnLeavingRespond : Prop :=
  ∀ s t : State, s.inp.rst = false → step s = .next t →
    (s.st = .respond ∧ t.st ≠ .respond ∧ t.rspLog = s.rspLog ++ [s.response])
      ∨ (¬(s.st = .respond ∧ t.st ≠ .respond) ∧ t.rspLog = s.rspLog)

/-- R190, R191: a step without reset emits at most one event, one of the five, and each only where R141, R96, R142, R115 and R125
emit it: a probe that succeeded, with the byte read; a poll that timed out; a detach; a read or a write whose range fails check 1. -/
def Obligations.DiagnosticsAreTheFive : Prop :=
  ∀ s t : State, s.inp.rst = false → step s = .next t →
    t.diagLog = s.diagLog
      ∨ (s.st = .probe ∧ t.st = .respond ∧ t.res = .ok ∧ t.diagLog = s.diagLog ++ [⟨.attach, t.status⟩])
      ∨ (s.st = .pollRdsr ∧ t.st = .respond ∧ t.res = .timeout ∧ t.diagLog = s.diagLog ++ [⟨.timeout, 0x00⟩])
      ∨ (s.st = .idle ∧ t.st = .respond ∧ t.op = .detach ∧ t.res = .ok ∧ t.diagLog = s.diagLog ++ [⟨.detach, 0x00⟩])
      ∨ (s.st = .idle ∧ t.st = .respond ∧ t.op = .read ∧ t.res = .invalidArgument ∧ PortOutOfRange s
        ∧ t.diagLog = s.diagLog ++ [⟨.oobRead, 0x00⟩])
      ∨ (s.st = .idle ∧ t.st = .respond ∧ t.op = .write ∧ t.res = .invalidArgument ∧ PortOutOfRange s
        ∧ t.diagLog = s.diagLog ++ [⟨.oobWrite, 0x00⟩])

/-- R28: without reset, a handle comes to exist only by the response of a successful attach and ceases only by the acceptance of
a detach. -/
def Obligations.HandleLifecycle : Prop :=
  ∀ s t : State, MachineInv s → s.inp.rst = false → step s = .next t →
    (s.handleExists = false → t.handleExists = true → s.st = .respond ∧ s.op = .attach ∧ s.res = .ok)
      ∧ (s.handleExists = true → t.handleExists = false → s.st = .idle ∧ t.op = .detach ∧ t.st = .respond)

/-- R29: registers that the present state can no longer read make no difference, now or later: two machines that agree on the
others step to machines that agree. -/
def Obligations.StaleRegistersMakeNoDifference : Prop :=
  ∀ s t s' : State, MachineInv s → SameLive s t → step s = .next s' → ∃ t', step t = .next t' ∧ SameLive s' t'

/-! ### Whole transactions -/

/-- R98: `MAX_ATTEMPTS` busy reads end in a timeout after exactly that many messages and one wait between each two. -/
def Obligations.WaitReadyTimesOut : Prop :=
  ∀ (s : State) (bs : List Byte), s.cfg.wf = true → s.cfg.backend = .oracle → s.st = .pollRdsr → s.attempt = 0 →
    bs.length = s.cfg.maxAttempts → (∀ b ∈ bs, busy b = true) →
    ∃ t, runScript s (pollScript s.cfg.intervalTicks (bs.map fun b => Answer.ok [b])) = .next t
      ∧ t.st = .respond ∧ t.res = .timeout
      ∧ t.busLog = s.busLog ++ bs.map rdsrEntry ∧ t.diagLog = s.diagLog ++ [⟨.timeout, 0x00⟩]

/-- R98: fewer than `MAX_ATTEMPTS` busy reads and then a ready one end in success, with a wait only between two messages. -/
def Obligations.WaitReadySucceeds : Prop :=
  ∀ (s : State) (bs : List Byte) (b : Byte), s.cfg.wf = true → s.cfg.backend = .oracle → s.st = .pollRdsr →
    s.attempt = 0 →
    bs.length < s.cfg.maxAttempts → (∀ x ∈ bs, busy x = true) → busy b = false →
    ∃ t, runScript s (pollScript s.cfg.intervalTicks ((bs ++ [b]).map fun x => Answer.ok [x])) = .next t
      ∧ t.st = .respond ∧ t.res = .ok ∧ t.attempt.toNat = bs.length ∧ t.status = b
      ∧ t.busLog = s.busLog ++ (bs ++ [b]).map rdsrEntry ∧ t.diagLog = s.diagLog

/-- R98: fewer than `MAX_ATTEMPTS` busy reads and then an error end with that error. -/
def Obligations.WaitReadyAborts : Prop :=
  ∀ (s : State) (bs : List Byte) (e : TErr), s.cfg.wf = true → s.cfg.backend = .oracle → s.st = .pollRdsr →
    s.attempt = 0 →
    bs.length < s.cfg.maxAttempts → (∀ x ∈ bs, busy x = true) →
    ∃ t, runScript s (pollScript s.cfg.intervalTicks ((bs.map fun x => Answer.ok [x]) ++ [Answer.err e])) = .next t
      ∧ t.st = .respond ∧ t.res = .transportError ∧ t.terr = e
      ∧ t.busLog = s.busLog ++ bs.map rdsrEntry ++ [⟨rdsrCall, .err e⟩] ∧ t.diagLog = s.diagLog

/-- R119: the three rows of the read as one big step. -/
def Obligations.ReadTransaction : Prop :=
  ∀ (s : State) (addr : Addr) (len : Len) (d : WData), s.st = .idle → s.cfg.backend = .oracle →
    (262144 < addr.toNat + len.toNat →
      RunsTo s [requesting (requestWord .read addr len) d, taking] .idle [] [⟨.oobRead, 0x00⟩]
        [⟨.read, .invalidArgument, none, none⟩])
    ∧ (∀ rx : List Byte, addr.toNat + len.toNat ≤ 262144 → rx.length = len.toNat →
      RunsTo s [requesting (requestWord .read addr len) d, answering (.ok rx), taking] .idle
        [⟨readCall addr len.toNat, .ok rx⟩] [] [⟨.read, .ok, none, some rx⟩])
    ∧ (∀ e : TErr, addr.toNat + len.toNat ≤ 262144 →
      RunsTo s [requesting (requestWord .read addr len) d, answering (.err e), taking] .idle
        [⟨readCall addr len.toNat, .err e⟩] [] [⟨.read, .transportError, some e, none⟩])

/-- R134, rows one to four: a write rejected, or failed before the poll. -/
def Obligations.WriteTransactionEndsEarly : Prop :=
  ∀ (s : State) (addr : Addr) (len : Len) (d : WData), s.st = .idle → s.cfg.backend = .oracle →
    (262144 < addr.toNat + len.toNat →
      RunsTo s [requesting (requestWord .write addr len) d, taking] .idle [] [⟨.oobWrite, 0x00⟩]
        [⟨.write, .invalidArgument, none, none⟩])
    ∧ (addr.toNat + len.toNat ≤ 262144 → 256 < len.toNat →
      RunsTo s [requesting (requestWord .write addr len) d, taking] .idle [] []
        [⟨.write, .invalidArgument, none, none⟩])
    ∧ (∀ e : TErr, addr.toNat + len.toNat ≤ 262144 → len.toNat ≤ 256 →
      RunsTo s [requesting (requestWord .write addr len) d, answering (.err e), taking] .idle
        [⟨wrenCall, .err e⟩] [] [⟨.write, .transportError, some e, none⟩])
    ∧ (∀ e : TErr, addr.toNat + len.toNat ≤ 262144 → len.toNat ≤ 256 →
      RunsTo s [requesting (requestWord .write addr len) d, answering (.ok []), answering (.err e), taking] .idle
        [wrenEntry, ⟨writeCall addr (captureData d len.toNat), .err e⟩] []
        [⟨.write, .transportError, some e, none⟩])

/-- R134, rows five to seven: a write that reaches the poll, from the request to the response. -/
def Obligations.WriteTransactionPolls : Prop :=
  ∀ (s : State) (addr : Addr) (len : Len) (d : WData) (bs : List Byte), s.st = .idle → s.cfg.backend = .oracle →
    s.cfg.wf = true →
    addr.toNat + len.toNat ≤ 262144 → len.toNat ≤ 256 → (∀ b ∈ bs, busy b = true) →
    (∀ e : TErr, bs.length < s.cfg.maxAttempts →
      RunsTo s
        ([requesting (requestWord .write addr len) d, answering (.ok []), answering (.ok [])]
          ++ pollScript s.cfg.intervalTicks ((bs.map fun b => Answer.ok [b]) ++ [Answer.err e]) ++ [taking])
        .idle
        ([wrenEntry, writeEntry addr (captureData d len.toNat)] ++ bs.map rdsrEntry ++ [⟨rdsrCall, .err e⟩]) []
        [⟨.write, .transportError, some e, none⟩])
    ∧ (∀ b : Byte, bs.length < s.cfg.maxAttempts → busy b = false →
      RunsTo s
        ([requesting (requestWord .write addr len) d, answering (.ok []), answering (.ok [])]
          ++ pollScript s.cfg.intervalTicks ((bs ++ [b]).map fun b => Answer.ok [b]) ++ [taking])
        .idle
        ([wrenEntry, writeEntry addr (captureData d len.toNat)] ++ (bs ++ [b]).map rdsrEntry) []
        [⟨.write, .ok, none, none⟩])
    ∧ (bs.length = s.cfg.maxAttempts →
      RunsTo s
        ([requesting (requestWord .write addr len) d, answering (.ok []), answering (.ok [])]
          ++ pollScript s.cfg.intervalTicks (bs.map fun b => Answer.ok [b]) ++ [taking])
        .idle
        ([wrenEntry, writeEntry addr (captureData d len.toNat)] ++ bs.map rdsrEntry) [⟨.timeout, 0x00⟩]
        [⟨.write, .timeout, none, none⟩])

/-! ### The chip behind the transport (the model's choice, logs 11 to 14) -/

/-- The frame of the array: only a WRITE, a READ of a busy chip (U7) and a poll that ends its write without `OK` (U2) touch it, and
only in the pages the request addresses. -/
def Obligations.ArrayFrame : Prop :=
  ∀ (i : Instr) (s t : State), exec i s = .next t →
    ((∀ a : Addr, i ≠ .write a) → (∀ a : Addr, i ≠ .read a) → ¬(i = .rdsr ∧ s.st = .pollRdsr) →
      ∀ x : Nat, Memory.read t.chip.mem x = Memory.read s.chip.mem x)
    ∧ (∀ a : Addr, i = .read a →
      (s.chip.busy = 0 → ∀ x : Nat, Memory.read t.chip.mem x = Memory.read s.chip.mem x)
      ∧ ∀ x : Nat, pageOf x ∉ touchedPages s.addr.toNat s.len.toNat →
        Memory.read t.chip.mem x = Memory.read s.chip.mem x)
    ∧ (∀ a : Addr, i = .write a →
      ∀ x : Nat, pageOf x ∉ touchedPages s.addr.toNat s.wbuf.length →
        Memory.read t.chip.mem x = Memory.read s.chip.mem x)
    ∧ (i = .rdsr → s.st = .pollRdsr →
      (¬(t.st = .respond ∧ t.res ≠ .ok) → ∀ x : Nat, Memory.read t.chip.mem x = Memory.read s.chip.mem x)
      ∧ ∀ x : Nat, pageOf x ∉ touchedPages s.addr.toNat s.len.toNat →
        Memory.read t.chip.mem x = Memory.read s.chip.mem x)

/-- WREN delivered to a ready chip sets its latch, and bit 0 of a status read shows the chip busy exactly while it is and counts the
reads down; neither touches the array. -/
def Obligations.ChipTakesWrenAndStatus : Prop :=
  (∀ (s : State) (rx : List Byte), s.cfg.backend = .chip → s.st = .wrWren → s.inp.bus = some (.ok rx) →
    s.chip.busy = 0 →
    ∃ t, exec .wren s = .next t ∧ t.st = .wrXfer ∧ t.chip = { s.chip with wel := true })
    ∧ (∀ (s : State) (rx : List Byte), s.cfg.backend = .chip → s.st = .probe → s.inp.bus = some (.ok rx) →
      ∃ t, exec .rdsr s = .next t ∧ t.chip = { s.chip with busy := s.chip.busy - 1 }
        ∧ t.status.getLsbD 0 = decide (s.chip.busy ≠ 0))
    ∧ (∀ (s : State) (rx : List Byte), s.cfg.backend = .chip → s.st = .pollRdsr → s.inp.bus = some (.ok rx) →
      (s.chip.busy = 0 → ∃ t, exec .rdsr s = .next t ∧ t.chip = s.chip ∧ t.status.getLsbD 0 = false
        ∧ t.res = .ok ∧ t.st = .respond)
      ∧ (s.chip.busy ≠ 0 → s.attempt.toNat + 1 < s.cfg.maxAttempts →
        ∃ t, exec .rdsr s = .next t ∧ t.chip = { s.chip with busy := s.chip.busy - 1 } ∧ t.status.getLsbD 0 = true
          ∧ t.st = .pollWait))

/-- R53's data: a WRITE of some data delivered to a ready chip with its latch set, inside one page, stores `wbuf` at `addr` and
nothing anywhere else; the latch is consumed and the chip is busy. A WRITE without data stores nothing (ArrayFrame); its latch
and busy count are free (U9). -/
def Obligations.ChipStoresPageWrite : Prop :=
  ∀ (s : State) (rx : List Byte), s.cfg.backend = .chip → s.st = .wrXfer → s.inp.bus = some (.ok rx) →
    Memory.wf s.chip.mem = true → s.chip.busy = 0 → s.chip.wel = true →
    s.wbuf ≠ [] → s.addr.toNat % 256 + s.wbuf.length ≤ 256 →
    ∃ t, exec (.write s.addr) s = .next t
      ∧ Memory.readBytes t.chip.mem s.addr.toNat s.wbuf.length = s.wbuf
      ∧ (∀ x : Nat, x < s.addr.toNat ∨ s.addr.toNat + s.wbuf.length ≤ x →
          Memory.read t.chip.mem x = Memory.read s.chip.mem x)
      ∧ t.chip.wel = false ∧ t.chip.busy = s.cfg.busyReads

/-- A READ of a ready chip below 0x10000 returns the array's bytes and changes nothing on the chip. -/
def Obligations.ChipReturnsArray : Prop :=
  ∀ (s : State) (rx : List Byte), s.cfg.backend = .chip → s.st = .rdXfer → s.inp.bus = some (.ok rx) →
    s.chip.busy = 0 →
    s.addr.toNat + s.len.toNat ≤ 65536 →
    ∃ t, exec (.read s.addr) s = .next t
      ∧ t.rbuf = Memory.readBytes s.chip.mem s.addr.toNat s.len.toNat ∧ t.chip = s.chip

/-- The source's round trip (S3): with the chip behind the transport, ready and polled long enough, a write inside one page that
is followed by a read of the same range returns the bytes written. -/
def Obligations.RoundTripThroughChip : Prop :=
  ∀ (s : State) (addr : Addr) (len : Len) (d : WData), s.cfg.backend = .chip → s.cfg.wf = true → s.st = .idle →
    Memory.wf s.chip.mem = true →
    s.chip.busy = 0 → s.cfg.busyReads < s.cfg.maxAttempts → 0 < len.toNat → addr.toNat % 256 + len.toNat ≤ 256 →
    ∃ t, runScript s
        ([requesting (requestWord .write addr len) d, answering (.ok []), answering (.ok [])]
          ++ pollScript s.cfg.intervalTicks (List.replicate (s.cfg.busyReads + 1) (.ok []))
          ++ [taking, requesting (requestWord .read addr len) d, answering (.ok []), taking]) = .next t
      ∧ t.st = .idle
      ∧ t.rspLog = s.rspLog ++
          [⟨.write, .ok, none, none⟩, ⟨.read, .ok, none, some (captureData d len.toNat)⟩]

/-! ### Widths and ports -/

/-- R6: `IVL_W` is the least width that holds `INTERVAL_TICKS`. -/
def Obligations.IvlWidthIsLeast : Prop :=
  ∀ c : Config, c.intervalTicks < 2 ^ ivlW c ∧ ∀ w : Nat, c.intervalTicks < 2 ^ w → ivlW c ≤ w

/-- R31: what the ports of a call show in each state that has one outstanding, and that no other state has one. -/
def Obligations.CallPortsShowTheCall : Prop :=
  (∀ s : State, s.st = .wrWren →
      s.btKind = some 0 ∧ s.btNdesc = some 1 ∧ s.btD0Dir = some 0 ∧ s.btD0N = some 1 ∧ s.btD1Dir = none
        ∧ s.btTxBytes = some [0x06])
    ∧ (∀ s : State, s.st = .probe ∨ s.st = .pollRdsr →
      s.btKind = some 1 ∧ s.btNdesc = some 2 ∧ s.btD0Dir = some 0 ∧ s.btD0N = some 1 ∧ s.btD1Dir = some 1
        ∧ s.btD1N = some 1 ∧ s.btTxBytes = some [0x05])
    ∧ (∀ s : State, s.st = .rdXfer →
      s.btKind = some 1 ∧ s.btNdesc = some 2 ∧ s.btD0Dir = some 0 ∧ s.btD0N = some 3 ∧ s.btD1Dir = some 1
        ∧ s.btD1N = some s.len ∧ s.btTxBytes = some (frameAddress 0x03 s.addr))
    ∧ (∀ s : State, s.st = .wrXfer → s.wbuf.length = s.len.toNat →
      s.btKind = some 1 ∧ s.btNdesc = some 2 ∧ s.btD0Dir = some 0 ∧ s.btD0N = some 3 ∧ s.btD1Dir = some 0
        ∧ s.btD1N = some s.len ∧ s.btTxBytes = some (frameAddress 0x02 s.addr ++ s.wbuf))
    ∧ (∀ s : State, s.btCallValid = true ↔
      s.st = .wrWren ∨ s.st = .probe ∨ s.st = .pollRdsr ∨ s.st = .rdXfer ∨ s.st = .wrXfer)
end

