-- ==== Sys2Proof/Laws/Memory.lean ====
section
/-! SUPPORT. The array's operations: read after write, and that each keeps the canonical form. -/

namespace Sys2Proof.Machine

theorem Memory.wfFrom_weaken {lo lo' : Nat} {m : List Host.Cell} (h : lo' ≤ lo) (hw : Memory.wfFrom lo m = true) :
    Memory.wfFrom lo' m = true := by
  cases m with
  | nil => rfl
  | cons c rest =>
    obtain ⟨a, v⟩ := c
    simp only [Memory.wfFrom, Bool.and_eq_true, decide_eq_true_eq] at hw ⊢
    exact ⟨⟨⟨by omega, hw.1.1.2⟩, hw.1.2⟩, hw.2⟩

/-- Below its first address a canonical list reads blank. -/
theorem Memory.read_below {lo a : Nat} {m : List Host.Cell} (hw : Memory.wfFrom lo m = true) (h : a < lo) :
    Memory.read m a = Memory.blank := by
  induction m generalizing lo with
  | nil => rfl
  | cons c rest ih =>
    obtain ⟨b, v⟩ := c
    simp only [Memory.wfFrom, Bool.and_eq_true, decide_eq_true_eq] at hw
    have hb : b ≠ a := by omega
    simp only [Memory.read, if_neg hb]
    exact ih hw.2 (by omega)

theorem Memory.put_wfFrom {lo a : Nat} {v : Byte} {m : List Host.Cell} (ha : a < Config.totalSize) (hl : lo ≤ a)
    (hw : Memory.wfFrom lo m = true) : Memory.wfFrom lo (Memory.put m a v) = true := by
  induction m generalizing lo with
  | nil =>
    by_cases hv : v = Memory.blank <;> simp [Memory.put, Memory.wfFrom, hv, ha, hl]
  | cons c rest ih =>
    obtain ⟨b, w⟩ := c
    have hw' := hw
    simp only [Memory.wfFrom, Bool.and_eq_true, decide_eq_true_eq] at hw
    obtain ⟨⟨⟨hlb, hb⟩, hwv⟩, hrest⟩ := hw
    unfold Memory.put
    split_ifs with h1 h2 h3 h4
    · exact hw'
    · simp only [Memory.wfFrom, Bool.and_eq_true, decide_eq_true_eq]
      exact ⟨⟨⟨hl, ha⟩, h2⟩, ⟨⟨⟨by omega, hb⟩, hwv⟩, hrest⟩⟩
    · exact Memory.wfFrom_weaken (by omega) hrest
    · subst h3
      simp only [Memory.wfFrom, Bool.and_eq_true, decide_eq_true_eq]
      exact ⟨⟨⟨hl, ha⟩, h4⟩, hrest⟩
    · simp only [Memory.wfFrom, Bool.and_eq_true, decide_eq_true_eq]
      exact ⟨⟨⟨hlb, hb⟩, hwv⟩, ih (by omega) hrest⟩

theorem Memory.read_put_same {lo a : Nat} {v : Byte} {m : List Host.Cell} (hw : Memory.wfFrom lo m = true) :
    Memory.read (Memory.put m a v) a = v := by
  induction m generalizing lo with
  | nil =>
    by_cases hv : v = Memory.blank <;> simp [Memory.put, Memory.read, hv]
  | cons c rest ih =>
    obtain ⟨b, w⟩ := c
    have hw' := hw
    simp only [Memory.wfFrom, Bool.and_eq_true, decide_eq_true_eq] at hw
    unfold Memory.put
    split_ifs with h1 h2 h3 h4
    · rw [h2]
      have hb : b ≠ a := by omega
      simp only [Memory.read, if_neg hb]
      exact Memory.read_below hw.2 (by omega)
    · simp [Memory.read]
    · rw [h4]
      exact Memory.read_below hw.2 (by omega)
    · simp [Memory.read]
    · have hb : b ≠ a := fun h => h3 h.symm
      simp only [Memory.read, if_neg hb]
      exact ih hw.2

theorem Memory.read_put_other {a b : Nat} {v : Byte} {m : List Host.Cell} (h : b ≠ a) :
    Memory.read (Memory.put m a v) b = Memory.read m b := by
  induction m with
  | nil =>
    by_cases hv : v = Memory.blank <;> simp [Memory.put, Memory.read, hv, Ne.symm h]
  | cons c rest ih =>
    obtain ⟨x, w⟩ := c
    unfold Memory.put
    split_ifs with h1 h2 h3 h4
    · rfl
    · simp [Memory.read, Ne.symm h]
    · subst h3
      simp [Memory.read, Ne.symm h]
    · subst h3
      simp [Memory.read, Ne.symm h]
    · simp only [Memory.read, ih]

/-- A write keeps the canonical form. -/
theorem Memory.write_wf {m : List Host.Cell} (a : Nat) (v : Byte) (hw : Memory.wf m = true) :
    Memory.wf (Memory.write m a v) = true := by
  unfold Memory.write
  split_ifs with h
  · exact Memory.put_wfFrom h (Nat.zero_le a) hw
  · exact hw

/-- A byte written inside the array is read back. -/
theorem Memory.read_write_same {m : List Host.Cell} {a : Nat} (v : Byte) (hw : Memory.wf m = true)
    (ha : a < Config.totalSize) : Memory.read (Memory.write m a v) a = v := by
  rw [Memory.write, if_pos ha]
  exact Memory.read_put_same hw

/-- A write leaves every other address alone. -/
theorem Memory.read_write_other (m : List Host.Cell) {a b : Nat} (v : Byte) (h : b ≠ a) :
    Memory.read (Memory.write m a v) b = Memory.read m b := by
  unfold Memory.write
  split_ifs
  · exact Memory.read_put_other h
  · rfl

/-- Writing a run of bytes keeps the canonical form. -/
theorem Memory.writeBytes_wf {m : List Host.Cell} (a : Nat) (vs : List Byte) (hw : Memory.wf m = true) :
    Memory.wf (Memory.writeBytes m a vs) = true := by
  induction vs generalizing m a with
  | nil => exact hw
  | cons v rest ih => exact ih (a + 1) (Memory.write_wf a v hw)

/-- A run of bytes leaves every address outside it alone. -/
theorem Memory.read_writeBytes_outside (m : List Host.Cell) {a b : Nat} (vs : List Byte)
    (h : b < a ∨ a + vs.length ≤ b) : Memory.read (Memory.writeBytes m a vs) b = Memory.read m b := by
  induction vs generalizing m a with
  | nil => rfl
  | cons v rest ih =>
    simp only [List.length_cons] at h
    rw [Memory.writeBytes, ih _ (by omega), Memory.read_write_other _ _ (by omega)]

/-- A run of bytes inside the array is read back. -/
theorem Memory.read_writeBytes_inside {m : List Host.Cell} {a i : Nat} {vs : List Byte} (hw : Memory.wf m = true)
    (hi : i < vs.length) (ha : a + vs.length ≤ Config.totalSize) :
    Memory.read (Memory.writeBytes m a vs) (a + i) = vs[i] := by
  induction vs generalizing m a i with
  | nil => simp at hi
  | cons v rest ih =>
    simp only [List.length_cons] at hi ha
    rw [Memory.writeBytes]
    cases i with
    | zero =>
      rw [Memory.read_writeBytes_outside _ _ (by omega)]
      exact Memory.read_write_same v hw (by omega)
    | succ j =>
      have := ih (a := a + 1) (i := j) (Memory.write_wf a v hw) (by omega) (by omega)
      simpa [Nat.add_assoc, Nat.add_comm 1 j] using this

end Sys2Proof.Machine
end

