-- ==== Sys2Proof/Laws/Operands.lean ====
section
/-! SUPPORT. The operand forms: lengths of byte lists, the bytes of a header, and what the decoder reads from the headers
the framer builds. -/

namespace Sys2Proof.Machine

/-- `IVL_W` bits hold `INTERVAL_TICKS`. -/
theorem intervalTicks_lt (c : Config) : c.intervalTicks < 2 ^ ivlW c := by
  unfold ivlW
  split
  · omega
  · exact Nat.lt_log2_self

/-- No width below `IVL_W` does. -/
theorem ivlW_le {c : Config} {w : Nat} (h : c.intervalTicks < 2 ^ w) : ivlW c ≤ w := by
  unfold ivlW
  split
  · exact Nat.zero_le w
  · exact (Nat.log2_lt ‹_›).mpr h

theorem fitTimer_lt (c : Config) (n : Nat) : fitTimer c n < 2 ^ ivlW c :=
  Nat.mod_lt _ (Nat.two_pow_pos _)

/-- A number that fits is held as it is. -/
theorem fitTimer_of_lt {c : Config} {n : Nat} (h : n < 2 ^ ivlW c) : fitTimer c n = n := Nat.mod_eq_of_lt h

@[simp] theorem anyBytes_length (f : Nat → Byte) (n : Nat) : (anyBytes f n).length = n := by
  simp [anyBytes]

@[simp] theorem captureData_length (d : WData) (n : Nat) : (captureData d n).length = n := by
  simp [captureData]

@[simp] theorem receivedBytes_length (pad : Nat → Byte) (n : Nat) (rx : List Byte) :
    (receivedBytes pad n rx).length = n := by
  unfold receivedBytes
  split_ifs with h
  · exact h
  · exact anyBytes_length pad n

/-- Bytes of the right number arrive as they are on the port. -/
theorem receivedBytes_of_length (pad : Nat → Byte) {n : Nat} {rx : List Byte} (h : rx.length = n) :
    receivedBytes pad n rx = rx := if_pos h

@[simp] theorem frameAddress_length {w : Nat} (opc : Byte) (a : BitVec w) : (frameAddress opc a).length = 3 := rfl

@[simp] theorem wrenCall_rxCount : wrenCall.rxCount = 0 := rfl
@[simp] theorem rdsrCall_rxCount : rdsrCall.rxCount = 1 := rfl
@[simp] theorem readCall_rxCount (a : Addr) (n : Nat) : (readCall a n).rxCount = n := by
  simp [readCall, Call.rxCount]
@[simp] theorem writeCall_rxCount (a : Addr) (d : List Byte) : (writeCall a d).rxCount = 0 := rfl

/-- The two address bytes of a header make the address again (R62, R64). -/
theorem headerAddress_bytes (a : Addr) : headerAddress (a.extractLsb' 8 8) (a.extractLsb' 0 8) = a := by
  unfold headerAddress
  ext i hi
  simp only [BitVec.getElem_append, BitVec.getElem_extractLsb']
  split_ifs with h
  · simp
    rfl
  · rw [show 8 + (i - 8) = i by omega]
    rfl

/-- The two headers that carry an address, read back. -/
theorem decode_readHeader (a : Addr) : decode (.frame (frameAddress Config.opcRead a)) = .ok (.read a) := by
  simp [decode, decodeFrame, frameAddress, decodeAddress, headerAddress_bytes, Config.opcWren, Config.opcRdsr,
    Config.opcRead]

theorem decode_writeHeader (a : Addr) : decode (.frame (frameAddress Config.opcWrite a)) = .ok (.write a) := by
  simp [decode, decodeFrame, frameAddress, decodeAddress, headerAddress_bytes, Config.opcWren, Config.opcRdsr,
    Config.opcRead, Config.opcWrite]

/-- What the chip reads from each of the sequencer's four calls. -/
theorem wrenCall_chipOp : wrenCall.chipOp = .setLatch := rfl
theorem rdsrCall_chipOp : rdsrCall.chipOp = .readStatus := rfl

theorem readCall_chipOp (a : Addr) (n : Nat) : (readCall a n).chipOp = .readArray a.toNat n := by
  simp [readCall, Call.chipOp, decode, decodeFrame, frameAddress, decodeAddress, headerAddress_bytes, Config.opcWren,
    Config.opcRdsr, Config.opcRead]

theorem writeCall_chipOp (a : Addr) (d : List Byte) : (writeCall a d).chipOp = .writeArray a.toNat d := by
  simp [writeCall, Call.chipOp, decode, decodeFrame, frameAddress, decodeAddress, headerAddress_bytes, Config.opcWren,
    Config.opcRdsr, Config.opcRead, Config.opcWrite]

end Sys2Proof.Machine
end

