-- ==== Sys2Proof/Laws/Chip.lean ====
section
/-! SUPPORT. The chip: every operation on it keeps the array's canonical form; what a reply's length is; which addresses a
lost write can touch. -/

namespace Sys2Proof.Machine

theorem losePage_wf {k p : Nat} {m : List Host.Cell} (hw : Memory.wf m = true) :
    Memory.wf (losePage k m p) = true :=
  Memory.writeBytes_wf _ _ hw

theorem losePages_wf {k a n : Nat} {m : List Host.Cell} (hw : Memory.wf m = true) :
    Memory.wf (losePages k m a n) = true := by
  unfold losePages
  generalize touchedPages a n = ps
  induction ps generalizing m with
  | nil => exact hw
  | cons p rest ih =>
    rw [List.foldl_cons]
    exact ih (losePage_wf hw)

theorem Chip.loseWrite_wf {k a n : Nat} {c : Chip} (hw : Memory.wf c.mem = true) :
    Memory.wf (c.loseWrite k a n).mem = true :=
  losePages_wf hw

theorem Chip.loseRange_wf {k a n : Nat} {c : Chip} (hw : Memory.wf c.mem = true) :
    Memory.wf (c.loseRange k a n).mem = true :=
  losePages_wf hw

theorem Chip.afterReadArray_wf {k a n : Nat} {c : Chip} (hw : Memory.wf c.mem = true) :
    Memory.wf (c.afterReadArray k a n).mem = true := by
  unfold Chip.afterReadArray
  split
  · exact hw
  · exact Chip.loseRange_wf hw

theorem Chip.deliver_wf {br k : Nat} {c : Chip} (call : Call) (hw : Memory.wf c.mem = true) :
    Memory.wf (c.deliver br k call).mem = true := by
  unfold Chip.deliver
  split
  · split <;> exact hw
  · exact hw
  · exact Chip.afterReadArray_wf hw
  · split
    · exact Memory.writeBytes_wf _ _ hw
    · exact Chip.loseWrite_wf hw
  · exact hw

theorem Chip.fail_wf {k : Nat} {c : Chip} (call : Call) (hw : Memory.wf c.mem = true) :
    Memory.wf (c.fail k call).mem = true := by
  unfold Chip.fail
  split
  · exact hw
  · exact hw
  · exact Chip.afterReadArray_wf hw
  · exact Chip.loseWrite_wf hw
  · exact hw

/-- The chip returns as many bytes as each of the sequencer's calls asks for. -/
theorem Chip.reply_length_wren (k : Nat) (c : Chip) : (c.reply k wrenCall).length = 0 := by
  simp [Chip.reply, wrenCall_chipOp]

theorem Chip.reply_length_rdsr (k : Nat) (c : Chip) : (c.reply k rdsrCall).length = 1 := by
  simp [Chip.reply, rdsrCall_chipOp]

theorem Chip.reply_length_read (k : Nat) (c : Chip) (a : Addr) (n : Nat) : (c.reply k (readCall a n)).length = n := by
  simp only [Chip.reply, readCall_chipOp]
  split <;> simp

theorem Chip.reply_length_write (k : Nat) (c : Chip) (a : Addr) (d : List Byte) :
    (c.reply k (writeCall a d)).length = 0 := by
  simp [Chip.reply, writeCall_chipOp]

/-- The sequencer's busy test of the chip's status byte shows the chip busy exactly while it is. -/
theorem busy_statusByte (k : Nat) (c : Chip) : busy (c.statusByte k) = decide (0 < c.busy) := by
  have h : ∀ b : Byte, busy ((b &&& 0xFE) ||| 0x01) = true ∧ busy ((b &&& 0xFE) ||| 0x00) = false := by decide
  unfold Chip.statusByte
  split
  · rw [(h _).1, decide_eq_true ‹_›]
  · rw [(h _).2, decide_eq_false ‹_›]

/-- The pages of a page range. -/
theorem mem_pagesBetween {p first last : Nat} : p ∈ pagesBetween first last ↔ first ≤ p ∧ p ≤ last := by
  unfold pagesBetween
  rw [List.mem_range'_1]
  omega

/-- A lost write leaves every page it does not touch alone. -/
theorem losePages_read_other {k a n b : Nat} {m : List Host.Cell} (h : pageOf b ∉ touchedPages a n) :
    Memory.read (losePages k m a n) b = Memory.read m b := by
  unfold losePages
  generalize touchedPages a n = ps at h
  induction ps generalizing m with
  | nil => rfl
  | cons p rest ih =>
    simp only [List.mem_cons, not_or] at h
    rw [List.foldl_cons, ih h.2]
    unfold losePage
    apply Memory.read_writeBytes_outside
    have hp := h.1
    simp only [pageOf, Config.pageSize, List.length_map, List.length_range] at hp ⊢
    omega

/-- A READ leaves a ready chip alone. -/
theorem Chip.afterReadArray_ready {k a n : Nat} {c : Chip} (h : c.busy = 0) : c.afterReadArray k a n = c := if_pos h

/-- A READ of a busy chip leaves every page it does not address alone. -/
theorem Chip.afterReadArray_read_other {k a n b : Nat} {c : Chip} (h : pageOf b ∉ touchedPages a n) :
    Memory.read (c.afterReadArray k a n).mem b = Memory.read c.mem b := by
  unfold Chip.afterReadArray
  split
  · rfl
  · exact losePages_read_other h

end Sys2Proof.Machine
end

