-- ==== Sys2Proof/Laws/Flags.lean ====
section
/-! SUPPORT. The checks of the block as plain arithmetic: the busy test, the attempt bound, the two range checks, and what
a legal configuration is. -/

namespace Sys2Proof.Machine

theorem attemptsLeft_iff (m : Nat) (a : BitVec 7) : attemptsLeft m a = true ↔ a.toNat + 1 < m := by
  unfold attemptsLeft
  exact decide_eq_true_iff

theorem inArray_iff (a : Addr) (n : Len) : inArray a n = true ↔ a.toNat + n.toNat ≤ 262144 := by
  unfold inArray
  exact decide_eq_true_iff

theorem fitsPage_iff (n : Len) : fitsPage n = true ↔ n.toNat ≤ 256 := by
  unfold fitsPage
  exact decide_eq_true_iff

/-- With the spec's constants, R7 and the width of the attempt counter leave one condition on an instance. -/
theorem wf_iff (c : Config) : c.wf = true ↔ 1 ≤ c.maxAttempts ∧ c.maxAttempts < 128 := by
  unfold Config.wf Params.wf
  simp only [Bool.and_eq_true, decide_eq_true_iff]
  constructor
  · rintro ⟨⟨⟨⟨⟨⟨⟨h1, -⟩, -⟩, -⟩, -⟩, -⟩, -⟩, h2⟩
    exact ⟨h1, h2⟩
  · rintro ⟨h1, h2⟩
    have h3 : 1 ≤ Config.pageSize := by decide
    have h4 : Config.pageSize ≤ Config.totalSize := by decide
    have h5 : Config.busyMask ≠ 0 := by decide
    have h6 : [Config.opcRead, Config.opcWrite, Config.opcWren, Config.opcRdsr].Nodup := by decide
    have h7 : 16 ≤ Config.addrW := by decide
    have h8 : Config.totalSize < 2 ^ Config.lenW := by decide
    exact ⟨⟨⟨⟨⟨⟨⟨h1, h3⟩, h4⟩, h5⟩, h6⟩, h7⟩, h8⟩, h2⟩

end Sys2Proof.Machine
end

