-- ==== Sys2Proof/Laws/State.lean ====
section
/-! SUPPORT. One lemma per field per shared update of the state, so that no proof unfolds a record update. -/

namespace Sys2Proof.Machine

/-! ### emit -/

@[simp] theorem State.emit_cfg (s : State) (c : DiagCode) (b : Byte) : (s.emit c b).cfg = s.cfg := rfl
@[simp] theorem State.emit_st (s : State) (c : DiagCode) (b : Byte) : (s.emit c b).st = s.st := rfl
@[simp] theorem State.emit_op (s : State) (c : DiagCode) (b : Byte) : (s.emit c b).op = s.op := rfl
@[simp] theorem State.emit_addr (s : State) (c : DiagCode) (b : Byte) : (s.emit c b).addr = s.addr := rfl
@[simp] theorem State.emit_len (s : State) (c : DiagCode) (b : Byte) : (s.emit c b).len = s.len := rfl
@[simp] theorem State.emit_wbuf (s : State) (c : DiagCode) (b : Byte) : (s.emit c b).wbuf = s.wbuf := rfl
@[simp] theorem State.emit_rbuf (s : State) (c : DiagCode) (b : Byte) : (s.emit c b).rbuf = s.rbuf := rfl
@[simp] theorem State.emit_status (s : State) (c : DiagCode) (b : Byte) : (s.emit c b).status = s.status := rfl
@[simp] theorem State.emit_attempt (s : State) (c : DiagCode) (b : Byte) : (s.emit c b).attempt = s.attempt := rfl
@[simp] theorem State.emit_ivlCnt (s : State) (c : DiagCode) (b : Byte) : (s.emit c b).ivlCnt = s.ivlCnt := rfl
@[simp] theorem State.emit_res (s : State) (c : DiagCode) (b : Byte) : (s.emit c b).res = s.res := rfl
@[simp] theorem State.emit_terr (s : State) (c : DiagCode) (b : Byte) : (s.emit c b).terr = s.terr := rfl
@[simp] theorem State.emit_chip (s : State) (c : DiagCode) (b : Byte) : (s.emit c b).chip = s.chip := rfl
@[simp] theorem State.emit_busLog (s : State) (c : DiagCode) (b : Byte) : (s.emit c b).busLog = s.busLog := rfl
@[simp] theorem State.emit_diagLog (s : State) (c : DiagCode) (b : Byte) : (s.emit c b).diagLog = s.diagLog ++ [⟨c, b⟩] := rfl
@[simp] theorem State.emit_rspLog (s : State) (c : DiagCode) (b : Byte) : (s.emit c b).rspLog = s.rspLog := rfl
@[simp] theorem State.emit_inp (s : State) (c : DiagCode) (b : Byte) : (s.emit c b).inp = s.inp := rfl
@[simp] theorem State.emit_script (s : State) (c : DiagCode) (b : Byte) : (s.emit c b).script = s.script := rfl
@[simp] theorem State.emit_draws (s : State) (c : DiagCode) (b : Byte) : (s.emit c b).draws = s.draws := rfl

/-! ### complete -/

@[simp] theorem State.complete_cfg (s : State) : (s.complete).cfg = s.cfg := rfl
@[simp] theorem State.complete_st (s : State) : (s.complete).st = .respond := rfl
@[simp] theorem State.complete_op (s : State) : (s.complete).op = s.op := rfl
@[simp] theorem State.complete_addr (s : State) : (s.complete).addr = s.addr := rfl
@[simp] theorem State.complete_len (s : State) : (s.complete).len = s.len := rfl
@[simp] theorem State.complete_wbuf (s : State) : (s.complete).wbuf = s.wbuf := rfl
@[simp] theorem State.complete_rbuf (s : State) : (s.complete).rbuf = s.rbuf := rfl
@[simp] theorem State.complete_status (s : State) : (s.complete).status = s.status := rfl
@[simp] theorem State.complete_attempt (s : State) : (s.complete).attempt = s.attempt := rfl
@[simp] theorem State.complete_ivlCnt (s : State) : (s.complete).ivlCnt = s.ivlCnt := rfl
@[simp] theorem State.complete_res (s : State) : (s.complete).res = .ok := rfl
@[simp] theorem State.complete_terr (s : State) : (s.complete).terr = Config.anyTErr s.draws := rfl
@[simp] theorem State.complete_chip (s : State) : (s.complete).chip = s.chip := rfl
@[simp] theorem State.complete_busLog (s : State) : (s.complete).busLog = s.busLog := rfl
@[simp] theorem State.complete_diagLog (s : State) : (s.complete).diagLog = s.diagLog := rfl
@[simp] theorem State.complete_rspLog (s : State) : (s.complete).rspLog = s.rspLog := rfl
@[simp] theorem State.complete_inp (s : State) : (s.complete).inp = s.inp := rfl
@[simp] theorem State.complete_script (s : State) : (s.complete).script = s.script := rfl
@[simp] theorem State.complete_draws (s : State) : (s.complete).draws = s.draws + 1 := rfl

/-! ### raise -/

@[simp] theorem State.raise_cfg (s : State) (f : Failure) : (s.raise f).cfg = s.cfg := by cases f <;> rfl
@[simp] theorem State.raise_st (s : State) (f : Failure) : (s.raise f).st = .respond := by cases f <;> rfl
@[simp] theorem State.raise_op (s : State) (f : Failure) : (s.raise f).op = s.op := by cases f <;> rfl
@[simp] theorem State.raise_addr (s : State) (f : Failure) : (s.raise f).addr = s.addr := by cases f <;> rfl
@[simp] theorem State.raise_len (s : State) (f : Failure) : (s.raise f).len = s.len := by cases f <;> rfl
@[simp] theorem State.raise_wbuf (s : State) (f : Failure) : (s.raise f).wbuf = s.wbuf := by cases f <;> rfl
@[simp] theorem State.raise_rbuf (s : State) (f : Failure) : (s.raise f).rbuf = s.rbuf := by cases f <;> rfl
@[simp] theorem State.raise_status (s : State) (f : Failure) : (s.raise f).status = s.status := by cases f <;> rfl
@[simp] theorem State.raise_attempt (s : State) (f : Failure) : (s.raise f).attempt = s.attempt := by cases f <;> rfl
@[simp] theorem State.raise_ivlCnt (s : State) (f : Failure) : (s.raise f).ivlCnt = s.ivlCnt := by cases f <;> rfl
@[simp] theorem State.raise_chip (s : State) (f : Failure) : (s.raise f).chip = s.chip := by cases f <;> rfl
@[simp] theorem State.raise_busLog (s : State) (f : Failure) : (s.raise f).busLog = s.busLog := by cases f <;> rfl
@[simp] theorem State.raise_diagLog (s : State) (f : Failure) : (s.raise f).diagLog = s.diagLog := by cases f <;> rfl
@[simp] theorem State.raise_rspLog (s : State) (f : Failure) : (s.raise f).rspLog = s.rspLog := by cases f <;> rfl
@[simp] theorem State.raise_inp (s : State) (f : Failure) : (s.raise f).inp = s.inp := by cases f <;> rfl
@[simp] theorem State.raise_script (s : State) (f : Failure) : (s.raise f).script = s.script := by cases f <;> rfl
@[simp] theorem State.raise_invalidArgument_draws (s : State) : (s.raise .invalidArgument).draws = s.draws + 1 := rfl
@[simp] theorem State.raise_timeout_draws (s : State) : (s.raise .timeout).draws = s.draws + 1 := rfl
@[simp] theorem State.raise_transportError_draws (s : State) (e : TErr) :
    (s.raise (.transportError e)).draws = s.draws := rfl
@[simp] theorem State.raise_invalidArgument_res (s : State) : (s.raise .invalidArgument).res = .invalidArgument := rfl
@[simp] theorem State.raise_timeout_res (s : State) : (s.raise .timeout).res = .timeout := rfl
@[simp] theorem State.raise_transportError_res (s : State) (e : TErr) :
    (s.raise (.transportError e)).res = .transportError := rfl
@[simp] theorem State.raise_invalidArgument_terr (s : State) : (s.raise .invalidArgument).terr = Config.anyTErr s.draws := rfl
@[simp] theorem State.raise_timeout_terr (s : State) : (s.raise .timeout).terr = Config.anyTErr s.draws := rfl
@[simp] theorem State.raise_transportError_terr (s : State) (e : TErr) : (s.raise (.transportError e)).terr = e := rfl

/-! ### logCall -/

@[simp] theorem State.logCall_cfg (s : State) (c : Call) (a : Answer) : (s.logCall c a).cfg = s.cfg := rfl
@[simp] theorem State.logCall_st (s : State) (c : Call) (a : Answer) : (s.logCall c a).st = s.st := rfl
@[simp] theorem State.logCall_op (s : State) (c : Call) (a : Answer) : (s.logCall c a).op = s.op := rfl
@[simp] theorem State.logCall_addr (s : State) (c : Call) (a : Answer) : (s.logCall c a).addr = s.addr := rfl
@[simp] theorem State.logCall_len (s : State) (c : Call) (a : Answer) : (s.logCall c a).len = s.len := rfl
@[simp] theorem State.logCall_wbuf (s : State) (c : Call) (a : Answer) : (s.logCall c a).wbuf = s.wbuf := rfl
@[simp] theorem State.logCall_rbuf (s : State) (c : Call) (a : Answer) : (s.logCall c a).rbuf = s.rbuf := rfl
@[simp] theorem State.logCall_status (s : State) (c : Call) (a : Answer) : (s.logCall c a).status = s.status := rfl
@[simp] theorem State.logCall_attempt (s : State) (c : Call) (a : Answer) : (s.logCall c a).attempt = s.attempt := rfl
@[simp] theorem State.logCall_ivlCnt (s : State) (c : Call) (a : Answer) : (s.logCall c a).ivlCnt = s.ivlCnt := rfl
@[simp] theorem State.logCall_res (s : State) (c : Call) (a : Answer) : (s.logCall c a).res = s.res := rfl
@[simp] theorem State.logCall_terr (s : State) (c : Call) (a : Answer) : (s.logCall c a).terr = s.terr := rfl
@[simp] theorem State.logCall_chip (s : State) (c : Call) (a : Answer) : (s.logCall c a).chip = s.chipAfter c a := rfl
@[simp] theorem State.logCall_busLog (s : State) (c : Call) (a : Answer) : (s.logCall c a).busLog = s.busLog ++ [⟨c, a⟩] := rfl
@[simp] theorem State.logCall_diagLog (s : State) (c : Call) (a : Answer) : (s.logCall c a).diagLog = s.diagLog := rfl
@[simp] theorem State.logCall_rspLog (s : State) (c : Call) (a : Answer) : (s.logCall c a).rspLog = s.rspLog := rfl
@[simp] theorem State.logCall_inp (s : State) (c : Call) (a : Answer) : (s.logCall c a).inp = s.inp := rfl
@[simp] theorem State.logCall_script (s : State) (c : Call) (a : Answer) : (s.logCall c a).script = s.script := rfl
@[simp] theorem State.logCall_draws (s : State) (c : Call) (a : Answer) : (s.logCall c a).draws = s.draws + 1 := rfl

/-! ### loseWrite -/

@[simp] theorem State.loseWrite_cfg (s : State) : (s.loseWrite).cfg = s.cfg := by
  unfold State.loseWrite; split <;> rfl
@[simp] theorem State.loseWrite_st (s : State) : (s.loseWrite).st = s.st := by
  unfold State.loseWrite; split <;> rfl
@[simp] theorem State.loseWrite_op (s : State) : (s.loseWrite).op = s.op := by
  unfold State.loseWrite; split <;> rfl
@[simp] theorem State.loseWrite_addr (s : State) : (s.loseWrite).addr = s.addr := by
  unfold State.loseWrite; split <;> rfl
@[simp] theorem State.loseWrite_len (s : State) : (s.loseWrite).len = s.len := by
  unfold State.loseWrite; split <;> rfl
@[simp] theorem State.loseWrite_wbuf (s : State) : (s.loseWrite).wbuf = s.wbuf := by
  unfold State.loseWrite; split <;> rfl
@[simp] theorem State.loseWrite_rbuf (s : State) : (s.loseWrite).rbuf = s.rbuf := by
  unfold State.loseWrite; split <;> rfl
@[simp] theorem State.loseWrite_status (s : State) : (s.loseWrite).status = s.status := by
  unfold State.loseWrite; split <;> rfl
@[simp] theorem State.loseWrite_attempt (s : State) : (s.loseWrite).attempt = s.attempt := by
  unfold State.loseWrite; split <;> rfl
@[simp] theorem State.loseWrite_ivlCnt (s : State) : (s.loseWrite).ivlCnt = s.ivlCnt := by
  unfold State.loseWrite; split <;> rfl
@[simp] theorem State.loseWrite_res (s : State) : (s.loseWrite).res = s.res := by
  unfold State.loseWrite; split <;> rfl
@[simp] theorem State.loseWrite_terr (s : State) : (s.loseWrite).terr = s.terr := by
  unfold State.loseWrite; split <;> rfl
@[simp] theorem State.loseWrite_busLog (s : State) : (s.loseWrite).busLog = s.busLog := by
  unfold State.loseWrite; split <;> rfl
@[simp] theorem State.loseWrite_diagLog (s : State) : (s.loseWrite).diagLog = s.diagLog := by
  unfold State.loseWrite; split <;> rfl
@[simp] theorem State.loseWrite_rspLog (s : State) : (s.loseWrite).rspLog = s.rspLog := by
  unfold State.loseWrite; split <;> rfl
@[simp] theorem State.loseWrite_inp (s : State) : (s.loseWrite).inp = s.inp := by
  unfold State.loseWrite; split <;> rfl
@[simp] theorem State.loseWrite_script (s : State) : (s.loseWrite).script = s.script := by
  unfold State.loseWrite; split <;> rfl

/-! ### deliverResponse -/

@[simp] theorem State.deliverResponse_cfg (s : State) : (s.deliverResponse).cfg = s.cfg := rfl
@[simp] theorem State.deliverResponse_st (s : State) : (s.deliverResponse).st = afterResponse s.op s.res := rfl
@[simp] theorem State.deliverResponse_op (s : State) : (s.deliverResponse).op = s.op := rfl
@[simp] theorem State.deliverResponse_addr (s : State) : (s.deliverResponse).addr = s.addr := rfl
@[simp] theorem State.deliverResponse_len (s : State) : (s.deliverResponse).len = s.len := rfl
@[simp] theorem State.deliverResponse_wbuf (s : State) : (s.deliverResponse).wbuf = s.wbuf := rfl
@[simp] theorem State.deliverResponse_rbuf (s : State) : (s.deliverResponse).rbuf = s.rbuf := rfl
@[simp] theorem State.deliverResponse_status (s : State) : (s.deliverResponse).status = s.status := rfl
@[simp] theorem State.deliverResponse_attempt (s : State) : (s.deliverResponse).attempt = s.attempt := rfl
@[simp] theorem State.deliverResponse_ivlCnt (s : State) : (s.deliverResponse).ivlCnt = s.ivlCnt := rfl
@[simp] theorem State.deliverResponse_res (s : State) : (s.deliverResponse).res = s.res := rfl
@[simp] theorem State.deliverResponse_terr (s : State) : (s.deliverResponse).terr = s.terr := rfl
@[simp] theorem State.deliverResponse_chip (s : State) : (s.deliverResponse).chip = s.chip := rfl
@[simp] theorem State.deliverResponse_busLog (s : State) : (s.deliverResponse).busLog = s.busLog := rfl
@[simp] theorem State.deliverResponse_diagLog (s : State) : (s.deliverResponse).diagLog = s.diagLog := rfl
@[simp] theorem State.deliverResponse_rspLog (s : State) : (s.deliverResponse).rspLog = s.rspLog ++ [s.response] := rfl
@[simp] theorem State.deliverResponse_inp (s : State) : (s.deliverResponse).inp = s.inp := rfl
@[simp] theorem State.deliverResponse_script (s : State) : (s.deliverResponse).script = s.script := rfl
@[simp] theorem State.deliverResponse_draws (s : State) : (s.deliverResponse).draws = s.draws := rfl

/-! ### countTick -/

@[simp] theorem State.countTick_cfg (s : State) : (s.countTick).cfg = s.cfg := by
  unfold State.countTick; split <;> rfl
@[simp] theorem State.countTick_op (s : State) : (s.countTick).op = s.op := by
  unfold State.countTick; split <;> rfl
@[simp] theorem State.countTick_addr (s : State) : (s.countTick).addr = s.addr := by
  unfold State.countTick; split <;> rfl
@[simp] theorem State.countTick_len (s : State) : (s.countTick).len = s.len := by
  unfold State.countTick; split <;> rfl
@[simp] theorem State.countTick_wbuf (s : State) : (s.countTick).wbuf = s.wbuf := by
  unfold State.countTick; split <;> rfl
@[simp] theorem State.countTick_rbuf (s : State) : (s.countTick).rbuf = s.rbuf := by
  unfold State.countTick; split <;> rfl
@[simp] theorem State.countTick_status (s : State) : (s.countTick).status = s.status := by
  unfold State.countTick; split <;> rfl
@[simp] theorem State.countTick_attempt (s : State) : (s.countTick).attempt = s.attempt := by
  unfold State.countTick; split <;> rfl
@[simp] theorem State.countTick_res (s : State) : (s.countTick).res = s.res := by
  unfold State.countTick; split <;> rfl
@[simp] theorem State.countTick_terr (s : State) : (s.countTick).terr = s.terr := by
  unfold State.countTick; split <;> rfl
@[simp] theorem State.countTick_chip (s : State) : (s.countTick).chip = s.chip := by
  unfold State.countTick; split <;> rfl
@[simp] theorem State.countTick_busLog (s : State) : (s.countTick).busLog = s.busLog := by
  unfold State.countTick; split <;> rfl
@[simp] theorem State.countTick_diagLog (s : State) : (s.countTick).diagLog = s.diagLog := by
  unfold State.countTick; split <;> rfl
@[simp] theorem State.countTick_rspLog (s : State) : (s.countTick).rspLog = s.rspLog := by
  unfold State.countTick; split <;> rfl
@[simp] theorem State.countTick_inp (s : State) : (s.countTick).inp = s.inp := by
  unfold State.countTick; split <;> rfl
@[simp] theorem State.countTick_script (s : State) : (s.countTick).script = s.script := by
  unfold State.countTick; split <;> rfl
@[simp] theorem State.countTick_draws (s : State) : (s.countTick).draws = s.draws := by
  unfold State.countTick; split <;> rfl

/-! ### setRegs -/

@[simp] theorem State.setRegs_cfg (s : State) (r : Regs) : (s.setRegs r).cfg = s.cfg := rfl
@[simp] theorem State.setRegs_st (s : State) (r : Regs) : (s.setRegs r).st = s.st := rfl
@[simp] theorem State.setRegs_op (s : State) (r : Regs) : (s.setRegs r).op = r.op := rfl
@[simp] theorem State.setRegs_addr (s : State) (r : Regs) : (s.setRegs r).addr = r.addr := rfl
@[simp] theorem State.setRegs_len (s : State) (r : Regs) : (s.setRegs r).len = r.len := rfl
@[simp] theorem State.setRegs_wbuf (s : State) (r : Regs) : (s.setRegs r).wbuf = r.wbuf := rfl
@[simp] theorem State.setRegs_rbuf (s : State) (r : Regs) : (s.setRegs r).rbuf = r.rbuf := rfl
@[simp] theorem State.setRegs_status (s : State) (r : Regs) : (s.setRegs r).status = r.status := rfl
@[simp] theorem State.setRegs_attempt (s : State) (r : Regs) : (s.setRegs r).attempt = r.attempt := rfl
@[simp] theorem State.setRegs_ivlCnt (s : State) (r : Regs) : (s.setRegs r).ivlCnt = fitTimer s.cfg r.ivlCnt := rfl
@[simp] theorem State.setRegs_res (s : State) (r : Regs) : (s.setRegs r).res = r.res := rfl
@[simp] theorem State.setRegs_terr (s : State) (r : Regs) : (s.setRegs r).terr = r.terr := rfl
@[simp] theorem State.setRegs_chip (s : State) (r : Regs) : (s.setRegs r).chip = s.chip := rfl
@[simp] theorem State.setRegs_busLog (s : State) (r : Regs) : (s.setRegs r).busLog = s.busLog := rfl
@[simp] theorem State.setRegs_diagLog (s : State) (r : Regs) : (s.setRegs r).diagLog = s.diagLog := rfl
@[simp] theorem State.setRegs_rspLog (s : State) (r : Regs) : (s.setRegs r).rspLog = s.rspLog := rfl
@[simp] theorem State.setRegs_inp (s : State) (r : Regs) : (s.setRegs r).inp = s.inp := rfl
@[simp] theorem State.setRegs_script (s : State) (r : Regs) : (s.setRegs r).script = s.script := rfl
@[simp] theorem State.setRegs_draws (s : State) (r : Regs) : (s.setRegs r).draws = s.draws := rfl

/-! ### resetEvent -/

@[simp] theorem State.resetEvent_cfg (s : State) : (s.resetEvent).cfg = s.cfg := rfl
@[simp] theorem State.resetEvent_st (s : State) : (s.resetEvent).st = .detached := rfl
@[simp] theorem State.resetEvent_op (s : State) : (s.resetEvent).op = (Config.anyRegs s.draws).op := rfl
@[simp] theorem State.resetEvent_addr (s : State) : (s.resetEvent).addr = (Config.anyRegs s.draws).addr := rfl
@[simp] theorem State.resetEvent_len (s : State) : (s.resetEvent).len = (Config.anyRegs s.draws).len := rfl
@[simp] theorem State.resetEvent_wbuf (s : State) : (s.resetEvent).wbuf = (Config.anyRegs s.draws).wbuf := rfl
@[simp] theorem State.resetEvent_rbuf (s : State) : (s.resetEvent).rbuf = (Config.anyRegs s.draws).rbuf := rfl
@[simp] theorem State.resetEvent_status (s : State) : (s.resetEvent).status = (Config.anyRegs s.draws).status := rfl
@[simp] theorem State.resetEvent_attempt (s : State) : (s.resetEvent).attempt = (Config.anyRegs s.draws).attempt := rfl
@[simp] theorem State.resetEvent_ivlCnt (s : State) :
    (s.resetEvent).ivlCnt = fitTimer s.cfg (Config.anyRegs s.draws).ivlCnt := rfl
@[simp] theorem State.resetEvent_res (s : State) : (s.resetEvent).res = (Config.anyRegs s.draws).res := rfl
@[simp] theorem State.resetEvent_terr (s : State) : (s.resetEvent).terr = (Config.anyRegs s.draws).terr := rfl
@[simp] theorem State.resetEvent_chip (s : State) : (s.resetEvent).chip = s.abandonedChip := rfl
@[simp] theorem State.resetEvent_busLog (s : State) : (s.resetEvent).busLog = [] := rfl
@[simp] theorem State.resetEvent_diagLog (s : State) : (s.resetEvent).diagLog = [] := rfl
@[simp] theorem State.resetEvent_rspLog (s : State) : (s.resetEvent).rspLog = [] := rfl
@[simp] theorem State.resetEvent_inp (s : State) : (s.resetEvent).inp = s.inp := rfl
@[simp] theorem State.resetEvent_script (s : State) : (s.resetEvent).script = s.script := rfl
@[simp] theorem State.resetEvent_draws (s : State) : (s.resetEvent).draws = s.draws + 1 := rfl

/-! ### sample -/

@[simp] theorem State.sample_cfg (s : State) : (s.sample).cfg = s.cfg := by
  unfold State.sample; split <;> rfl
@[simp] theorem State.sample_st (s : State) : (s.sample).st = s.st := by
  unfold State.sample; split <;> rfl
@[simp] theorem State.sample_op (s : State) : (s.sample).op = s.op := by
  unfold State.sample; split <;> rfl
@[simp] theorem State.sample_addr (s : State) : (s.sample).addr = s.addr := by
  unfold State.sample; split <;> rfl
@[simp] theorem State.sample_len (s : State) : (s.sample).len = s.len := by
  unfold State.sample; split <;> rfl
@[simp] theorem State.sample_wbuf (s : State) : (s.sample).wbuf = s.wbuf := by
  unfold State.sample; split <;> rfl
@[simp] theorem State.sample_rbuf (s : State) : (s.sample).rbuf = s.rbuf := by
  unfold State.sample; split <;> rfl
@[simp] theorem State.sample_status (s : State) : (s.sample).status = s.status := by
  unfold State.sample; split <;> rfl
@[simp] theorem State.sample_attempt (s : State) : (s.sample).attempt = s.attempt := by
  unfold State.sample; split <;> rfl
@[simp] theorem State.sample_ivlCnt (s : State) : (s.sample).ivlCnt = s.ivlCnt := by
  unfold State.sample; split <;> rfl
@[simp] theorem State.sample_res (s : State) : (s.sample).res = s.res := by
  unfold State.sample; split <;> rfl
@[simp] theorem State.sample_terr (s : State) : (s.sample).terr = s.terr := by
  unfold State.sample; split <;> rfl
@[simp] theorem State.sample_chip (s : State) : (s.sample).chip = s.chip := by
  unfold State.sample; split <;> rfl
@[simp] theorem State.sample_busLog (s : State) : (s.sample).busLog = s.busLog := by
  unfold State.sample; split <;> rfl
@[simp] theorem State.sample_diagLog (s : State) : (s.sample).diagLog = s.diagLog := by
  unfold State.sample; split <;> rfl
@[simp] theorem State.sample_rspLog (s : State) : (s.sample).rspLog = s.rspLog := by
  unfold State.sample; split <;> rfl

end Sys2Proof.Machine
end

