-- ==== Sys2Proof/Laws/Ops.lean ====
section
/-! SUPPORT. One lemma for each shared operation that says all it can do. -/

namespace Sys2Proof.Machine

/-- What accepting a request can do: the accepted step, or nothing. -/
theorem acceptRequest_cases {s t : State} {r : ReqOp} {f : State → State} (h : acceptRequest s r f = .next t) :
    (accepts s.st r = true ∧ t = f { s with op := r }) ∨ (accepts s.st r = false ∧ t = s) := by
  unfold acceptRequest at h
  split at h <;> rename_i ha
  · exact .inl ⟨ha, (Host.Outcome.next.inj h).symm⟩
  · exact .inr ⟨by simpa using ha, (Host.Outcome.next.inj h).symm⟩

/-- What a bus-call step can do: wait, or log the call and act on its answer. -/
theorem busStep_cases {s t : State} {c : Call} {k : State → Answer → State} (h : busStep s c k = .next t) :
    (s.answerTo c = none ∧ t = s) ∨ ∃ a, s.answerTo c = some a ∧ t = k (s.logCall c a) a := by
  unfold busStep at h
  split at h <;> rename_i ha
  · exact .inl ⟨ha, (Host.Outcome.next.inj h).symm⟩
  · exact .inr ⟨_, ha, (Host.Outcome.next.inj h).symm⟩

theorem busStep_answered {s : State} {c : Call} {a : Answer} (k : State → Answer → State)
    (h : s.answerTo c = some a) : busStep s c k = .next (k (s.logCall c a) a) := by
  simp [busStep, h]

theorem busStep_waits {s : State} {c : Call} (k : State → Answer → State) (h : s.answerTo c = none) :
    busStep s c k = .next s := by
  simp [busStep, h]

/-- An error on the port reaches the sequencer as it is, whatever stands behind the transport. -/
theorem answerTo_err {s : State} {e : TErr} (c : Call) (h : s.inp.bus = some (.err e)) :
    s.answerTo c = some (.err e) := by
  simp [State.answerTo, h]

theorem answerTo_none {s : State} (c : Call) (h : s.inp.bus = none) : s.answerTo c = none := by
  simp [State.answerTo, h]

/-- With the oracle, bytes of the right number reach the sequencer as they are. -/
theorem answerTo_oracle {s : State} {rx : List Byte} {c : Call} (hb : s.cfg.backend = .oracle)
    (h : s.inp.bus = some (.ok rx)) (hl : rx.length = c.rxCount) : s.answerTo c = some (.ok rx) := by
  simp [State.answerTo, h, hb, receivedBytes_of_length _ hl]

theorem answerTo_chip {s : State} {rx : List Byte} (c : Call) (hb : s.cfg.backend = .chip)
    (h : s.inp.bus = some (.ok rx)) : s.answerTo c = some (.ok (s.chip.reply s.draws c)) := by
  simp [State.answerTo, h, hb]

/-- With the oracle the chip in State is not there. -/
theorem chipAfter_oracle {s : State} (c : Call) (a : Answer) (hb : s.cfg.backend = .oracle) :
    s.chipAfter c a = s.chip := by
  simp [State.chipAfter, hb]

theorem loseWrite_oracle {s : State} (hb : s.cfg.backend = .oracle) : s.loseWrite = s := by
  simp [State.loseWrite, hb]

/-- What the chip can become by a call keeps the array's form. -/
theorem chipAfter_wf {s : State} (c : Call) (a : Answer) (hw : Memory.wf s.chip.mem = true) :
    Memory.wf (s.chipAfter c a).mem = true := by
  unfold State.chipAfter
  split
  · exact hw
  · exact Chip.deliver_wf c hw
  · exact Chip.fail_wf c hw

theorem loseWrite_wf {s : State} (hw : Memory.wf s.chip.mem = true) : Memory.wf s.loseWrite.chip.mem = true := by
  unfold State.loseWrite
  split
  · exact hw
  · exact Chip.loseWrite_wf hw

theorem abandonedChip_wf {s : State} (hw : Memory.wf s.chip.mem = true) : Memory.wf s.abandonedChip.mem = true := by
  unfold State.abandonedChip
  split
  · exact hw
  · split <;> first | exact hw | exact Chip.fail_wf _ hw | exact Chip.loseWrite_wf hw

/-- A tick: the timer runs out, or counts down. -/
theorem countTick_cases (s : State) :
    (s.ivlCnt = 0 ∧ s.countTick = { s with st := .pollRdsr })
      ∨ (s.ivlCnt ≠ 0 ∧ s.countTick = { s with ivlCnt := s.ivlCnt - 1 }) := by
  unfold State.countTick
  split <;> rename_i h
  · exact .inl ⟨h, rfl⟩
  · exact .inr ⟨h, rfl⟩

/-- Sampling takes the script's next ports, or free ones at its end. -/
theorem sample_cons {s : State} {x : Inputs} {rest : List Inputs} (h : s.script = x :: rest) :
    s.sample = { s with inp := x, script := rest } := by
  simp [State.sample, h]

theorem sample_nil {s : State} (h : s.script = []) :
    s.sample = { s with inp := Config.anyInputs s.draws, draws := s.draws + 1 } := by
  simp [State.sample, h]

end Sys2Proof.Machine
end

