-- ==== Sys2Proof/Laws/PerInstr.lean ====
section
/-! SUPPORT. Laws stated per instruction: every encoding is as long as its row of the opcode table says. -/

namespace Sys2Proof.Laws.EncodingLength

/-- A frame's bytes, or the 50 bits of a request word, make the width of the instruction's row (R61, R62, R70). -/
def Statement (i : Instr) : Prop :=
  match encode i with
  | .frame bs => 8 * bs.length = i.width
  | .word _ => i.width = 50

theorem wren : Statement .wren := rfl
theorem rdsr : Statement .rdsr := rfl
theorem read (a : Addr) : Statement (.read a) := rfl
theorem write (a : Addr) : Statement (.write a) := rfl
theorem reqAttach (x : BitVec 48) : Statement (.reqAttach x) := rfl
theorem reqRead (a : Addr) (n : Len) : Statement (.reqRead a n) := rfl
theorem reqWrite (a : Addr) (n : Len) : Statement (.reqWrite a n) := rfl
theorem reqDetach (x : BitVec 48) : Statement (.reqDetach x) := rfl

end Sys2Proof.Laws.EncodingLength
end

