-- ==== Sys2Proof/Laws/Step.lean ====
section
/-! SUPPORT. The step: one inversion lemma that says all a step can do, and what each event's step is. -/

namespace Sys2Proof.Machine

theorem thenDo_next {r : Result} {f : State → State} {t : State} (h : r.thenDo f = .next t) :
    ∃ u, r = .next u ∧ t = f u := by
  cases r with
  | next u => exact ⟨u, rfl, (Host.Outcome.next.inj h).symm⟩
  | fault e => cases h
  | refused e => cases h

/-- What a step can do: run no instruction, or run the one it fetched; then load the next ports. -/
theorem step_cases {s t : State} (h : step s = .next t) :
    (fetch s = none ∧ t = (idleStep s).sample)
      ∨ ∃ raw i u, fetch s = some raw ∧ decode raw = .ok i ∧ exec i s = .next u ∧ t = u.sample := by
  unfold step at h
  split at h <;> rename_i hf
  · exact .inl ⟨hf, (Host.Outcome.next.inj h).symm⟩
  · split at h <;> rename_i hd
    · obtain ⟨u, hu, ht⟩ := thenDo_next h
      exact .inr ⟨_, _, u, hf, hd, hu, ht⟩
    · cases h

/-- A step in reset runs no instruction. -/
theorem fetch_reset {s : State} (h : s.inp.rst = true) : fetch s = none := by
  simp [fetch, h]

/-- A step in a resting state fetches the request presented. -/
theorem fetch_resting {s : State} (hr : s.inp.rst = false) (h : s.st = .detached ∨ s.st = .idle) :
    fetch s = s.inp.req.map Raw.word := by
  rcases h with h | h <;> simp [fetch, hr, h]

/-- A step with a command outstanding fetches its header. -/
theorem fetch_outstanding {s : State} {bs : List Byte} (hr : s.inp.rst = false) (h : s.outstandingHeader = some bs) :
    fetch s = some (.frame bs) := by
  unfold fetch
  rw [if_neg (by simp [hr])]
  unfold State.outstandingHeader at h ⊢
  split <;> simp_all

/-- The waiting states fetch nothing. -/
theorem fetch_waiting {s : State} (h : s.st = .pollWait ∨ s.st = .respond) : fetch s = none := by
  rcases h with h | h <;> simp [fetch, h]

/-! ### The step of each state -/

theorem step_reset {s : State} (hr : s.inp.rst = true) : step s = .next s.resetEvent.sample := by
  simp [step, fetch_reset hr, idleStep, hr]

theorem step_resting {s : State} (hr : s.inp.rst = false) (h : s.st = .detached ∨ s.st = .idle) :
    step s =
      match s.inp.req with
      | none => .next s.sample
      | some w => Result.thenDo (exec (decodeRequest w) s) State.sample := by
  have hf := fetch_resting hr h
  cases hq : s.inp.req with
  | none => rcases h with h | h <;> simp [step, hf, hq, idleStep, hr, h]
  | some w => simp [step, hf, hq, decode]

theorem step_waiting {s : State} (h : s.st = .pollWait ∨ s.st = .respond) : step s = .next (idleStep s).sample := by
  simp [step, fetch_waiting h]

theorem step_probe {s : State} (hr : s.inp.rst = false) (h : s.st = .probe) :
    step s = Result.thenDo (busStep s rdsrCall afterProbe) State.sample := by
  have hf : fetch s = some (.frame [Config.opcRdsr]) := fetch_outstanding hr (by simp [State.outstandingHeader, h])
  simp [step, hf, show decode (.frame [Config.opcRdsr]) = .ok .rdsr from rfl, exec, execRdsr, h]

theorem step_pollRdsr {s : State} (hr : s.inp.rst = false) (h : s.st = .pollRdsr) :
    step s = Result.thenDo (busStep s rdsrCall afterPoll) State.sample := by
  have hf : fetch s = some (.frame [Config.opcRdsr]) := fetch_outstanding hr (by simp [State.outstandingHeader, h])
  simp [step, hf, show decode (.frame [Config.opcRdsr]) = .ok .rdsr from rfl, exec, execRdsr, h]

theorem step_wrWren {s : State} (hr : s.inp.rst = false) (h : s.st = .wrWren) :
    step s = Result.thenDo (busStep s wrenCall afterWren) State.sample := by
  have hf : fetch s = some (.frame [Config.opcWren]) := fetch_outstanding hr (by simp [State.outstandingHeader, h])
  simp [step, hf, show decode (.frame [Config.opcWren]) = .ok .wren from rfl, exec, execWren, h]

theorem step_rdXfer {s : State} (hr : s.inp.rst = false) (h : s.st = .rdXfer) :
    step s = Result.thenDo (busStep s (readCall s.addr s.len.toNat) afterRead) State.sample := by
  have hf : fetch s = some (.frame (frameAddress Config.opcRead s.addr)) :=
    fetch_outstanding hr (by simp [State.outstandingHeader, h])
  simp [step, hf, decode_readHeader, exec, execRead, h]

theorem step_wrXfer {s : State} (hr : s.inp.rst = false) (h : s.st = .wrXfer) :
    step s = Result.thenDo (busStep s (writeCall s.addr s.wbuf) afterWrite) State.sample := by
  have hf : fetch s = some (.frame (frameAddress Config.opcWrite s.addr)) :=
    fetch_outstanding hr (by simp [State.outstandingHeader, h])
  simp [step, hf, decode_writeHeader, exec, execWrite, h]

/-! ### The events -/

/-- The events of the transition table (R154), each with the state it makes before the next ports are loaded. -/
inductive Event (s : State) : State → Prop
  | reset (hr : s.inp.rst = true) : Event s s.resetEvent
  | nothing (hr : s.inp.rst = false) : Event s s
  | acceptAttach (hr : s.inp.rst = false) (hs : s.st = .detached) : Event s { s with op := .attach, st := .probe }
  | acceptRead (hr : s.inp.rst = false) (hs : s.st = .idle) (w : ReqWord) (hq : s.inp.req = some w) :
      Event s (beginRead (w.extractLsb' 32 16) (w.extractLsb' 0 32) { s with op := .read })
  | acceptWrite (hr : s.inp.rst = false) (hs : s.st = .idle) (w : ReqWord) (hq : s.inp.req = some w) :
      Event s (beginWrite (w.extractLsb' 32 16) (w.extractLsb' 0 32) { s with op := .write })
  | acceptDetach (hr : s.inp.rst = false) (hs : s.st = .idle) :
      Event s ((({ s with op := .detach } : State).emit .detach 0x00).complete)
  | probe (hr : s.inp.rst = false) (hs : s.st = .probe) (a : Answer) (ha : s.answerTo rdsrCall = some a) :
      Event s (afterProbe (s.logCall rdsrCall a) a)
  | poll (hr : s.inp.rst = false) (hs : s.st = .pollRdsr) (a : Answer) (ha : s.answerTo rdsrCall = some a) :
      Event s (afterPoll (s.logCall rdsrCall a) a)
  | wren (hr : s.inp.rst = false) (hs : s.st = .wrWren) (a : Answer) (ha : s.answerTo wrenCall = some a) :
      Event s (afterWren (s.logCall wrenCall a) a)
  | read (hr : s.inp.rst = false) (hs : s.st = .rdXfer) (a : Answer)
      (ha : s.answerTo (readCall s.addr s.len.toNat) = some a) :
      Event s (afterRead (s.logCall (readCall s.addr s.len.toNat) a) a)
  | write (hr : s.inp.rst = false) (hs : s.st = .wrXfer) (a : Answer)
      (ha : s.answerTo (writeCall s.addr s.wbuf) = some a) :
      Event s (afterWrite (s.logCall (writeCall s.addr s.wbuf) a) a)
  | tick (hr : s.inp.rst = false) (hs : s.st = .pollWait) : Event s s.countTick
  | respond (hr : s.inp.rst = false) (hs : s.st = .respond) : Event s s.deliverResponse

theorem event_of_busStep {s t : State} {c : Call} {k : State → Answer → State}
    (h : Result.thenDo (busStep s c k) State.sample = .next t) (hr : s.inp.rst = false)
    (hk : ∀ a, s.answerTo c = some a → Event s (k (s.logCall c a) a)) : ∃ u, Event s u ∧ t = u.sample := by
  obtain ⟨u, hu, rfl⟩ := thenDo_next h
  rcases busStep_cases hu with ⟨_, rfl⟩ | ⟨a, ha, rfl⟩
  · exact ⟨_, .nothing hr, rfl⟩
  · exact ⟨_, hk a ha, rfl⟩

theorem event_of_request {s t : State} {w : ReqWord}
    (h : Result.thenDo (exec (decodeRequest w) s) State.sample = .next t) (hr : s.inp.rst = false)
    (hq : s.inp.req = some w) (hs : s.st = .detached ∨ s.st = .idle) : ∃ u, Event s u ∧ t = u.sample := by
  obtain ⟨u, hu, rfl⟩ := thenDo_next h
  refine ⟨u, ?_, rfl⟩
  unfold decodeRequest at hu
  split at hu <;> simp only [exec, execReqAttach, execReqRead, execReqWrite, execReqDetach] at hu <;>
    rcases acceptRequest_cases hu with ⟨ha, rfl⟩ | ⟨_, rfl⟩ <;> try exact .nothing hr
  · rcases hs with hs | hs
    · exact .acceptAttach hr hs
    · rw [hs] at ha; cases ha
  · rcases hs with hs | hs
    · rw [hs] at ha; cases ha
    · exact .acceptRead hr hs _ hq
  · rcases hs with hs | hs
    · rw [hs] at ha; cases ha
    · exact .acceptWrite hr hs _ hq
  · rcases hs with hs | hs
    · rw [hs] at ha; cases ha
    · exact .acceptDetach hr hs

/-- What a step can do, said once: one event, then the next ports. -/
theorem step_event {s t : State} (h : step s = .next t) : ∃ u, Event s u ∧ t = u.sample := by
  cases hr : s.inp.rst
  · cases hs : s.st
    case detached =>
      rw [step_resting hr (.inl hs)] at h
      split at h <;> rename_i hq
      · cases h; exact ⟨_, .nothing hr, rfl⟩
      · exact event_of_request h hr hq (.inl hs)
    case idle =>
      rw [step_resting hr (.inr hs)] at h
      split at h <;> rename_i hq
      · cases h; exact ⟨_, .nothing hr, rfl⟩
      · exact event_of_request h hr hq (.inr hs)
    case probe => rw [step_probe hr hs] at h; exact event_of_busStep h hr fun a ha => .probe hr hs a ha
    case pollRdsr => rw [step_pollRdsr hr hs] at h; exact event_of_busStep h hr fun a ha => .poll hr hs a ha
    case wrWren => rw [step_wrWren hr hs] at h; exact event_of_busStep h hr fun a ha => .wren hr hs a ha
    case rdXfer => rw [step_rdXfer hr hs] at h; exact event_of_busStep h hr fun a ha => .read hr hs a ha
    case wrXfer => rw [step_wrXfer hr hs] at h; exact event_of_busStep h hr fun a ha => .write hr hs a ha
    case pollWait =>
      rw [step_waiting (.inl hs)] at h
      cases h
      refine ⟨_, ?_, rfl⟩
      unfold idleStep
      rw [hr, hs, if_neg (by decide)]
      dsimp only
      split_ifs
      · exact .tick hr hs
      · exact .nothing hr
    case respond =>
      rw [step_waiting (.inr hs)] at h
      cases h
      refine ⟨_, ?_, rfl⟩
      unfold idleStep
      rw [hr, hs, if_neg (by decide)]
      dsimp only
      split_ifs
      · exact .respond hr hs
      · exact .nothing hr
  · rw [step_reset hr] at h
    cases h
    exact ⟨_, .reset hr, rfl⟩

end Sys2Proof.Machine
end

