-- ==== Sys2Proof/Laws/Run.lean ====
section
/-! SUPPORT. Runs over a script of input ports: one lemma for each kind of line of a script, to be chained. -/

namespace Sys2Proof.Safety

open Machine

/-- The run over a script ends in `v`, but for the ports, the script and the draw counter. -/
def EndsAs (s : State) (is : List Inputs) (v : State) : Prop :=
  ∃ t, runScript s is = .next t ∧ t = { v with inp := t.inp, script := t.script, draws := t.draws }

theorem endsAs_nil (s : State) : EndsAs s [] s := ⟨s, rfl, rfl⟩

/-- One line of a script, when the step's event leads to `v`. -/
theorem runScript_cons {s v : State} {x : Inputs} {is : List Inputs}
    (h : step { s with inp := x, script := is } = .next v.sample) (hv : v.script = is) :
    (is = [] → runScript s (x :: is) = .next v.sample) ∧ (is ≠ [] → runScript s (x :: is) = runScript v is) := by
  constructor
  · rintro rfl
    simp only [runScript, List.length_singleton, withInputs, runSteps, h]
  · intro hne
    cases is with
    | nil => contradiction
    | cons y r => simp only [runScript, List.length_cons, withInputs, runSteps, h, sample_cons hv]

theorem endsAs_cons {s v w : State} {x : Inputs} {is : List Inputs}
    (h : step { s with inp := x, script := is } = .next v.sample) (hv : v.script = is) (hw : EndsAs v is w) :
    EndsAs s (x :: is) w := by
  obtain ⟨h1, h2⟩ := runScript_cons h hv
  by_cases hne : is = []
  · subst hne
    obtain ⟨t, ht, he⟩ := hw
    cases ht
    refine ⟨_, h1 rfl, ?_⟩
    rw [sample_nil hv]
    simp only [withInputs] at he
    rw [he]
  · rw [EndsAs, h2 hne]
    exact hw

/-- Where a run ends does not depend on the ports and the script it starts from. -/
theorem endsAs_ports {s w : State} {i : Inputs} {r is : List Inputs} (hw : EndsAs s is w) :
    EndsAs { s with inp := i, script := r } is w := by
  cases is with
  | nil =>
    obtain ⟨t, ht, he⟩ := hw
    cases ht
    refine ⟨_, rfl, ?_⟩
    simp only [withInputs] at he ⊢
    rw [he]
  | cons x is => exact hw

/-- The ticks of one whole wait (R101). -/
theorem endsAs_ticks {s w : State} {is : List Inputs} (hs : s.st = .pollWait)
    (hw : EndsAs { s with st := .pollRdsr, ivlCnt := 0 } is w) :
    EndsAs s (List.replicate (s.ivlCnt + 1) ticking ++ is) w := by
  generalize hn : s.ivlCnt = n
  induction n generalizing s with
  | zero =>
    refine endsAs_cons (v := { s with st := .pollRdsr, inp := ticking, script := is }) ?_ rfl ?_
    · rw [step_waiting (s := { s with inp := ticking, script := _ }) (.inl hs)]
      simp [idleStep, ticking, Inputs.quiet, hs, State.countTick, hn]
    · have h := endsAs_ports (i := ticking) (r := is) hw
      rw [← hn] at h
      exact h
  | succ n ih =>
    rw [List.replicate_succ, List.cons_append]
    refine endsAs_cons (v := { s with ivlCnt := n, inp := ticking, script := _ }) ?_ rfl ?_
    · rw [step_waiting (s := { s with inp := ticking, script := _ }) (.inl hs)]
      simp [idleStep, ticking, Inputs.quiet, hs, State.countTick, hn]
    · exact ih (s := { s with ivlCnt := n, inp := ticking, script := _ }) hs
        (endsAs_ports (i := ticking) (r := _) hw) rfl

/-- The line with which the caller takes the response (R152). -/
theorem endsAs_taking {s w : State} {is : List Inputs} (hs : s.st = .respond) (hw : EndsAs s.deliverResponse is w) :
    EndsAs s (taking :: is) w := by
  have h : step { s with inp := taking, script := is }
      = .next (({ s with inp := taking, script := is } : State).deliverResponse).sample := by
    rw [step_waiting (s := { s with inp := taking, script := is }) (.inr hs)]
    simp [idleStep, taking, Inputs.quiet, hs]
  exact endsAs_cons h rfl (endsAs_ports (i := taking) (r := is) hw)

/-- The line with which the oracle answers the outstanding call (R153, R188). -/
theorem endsAs_answering {s w : State} {a : Answer} {is : List Inputs} {c : Call} {k : State → Answer → State}
    (ho : s.cfg.backend = .oracle) (hl : ∀ rx, a = .ok rx → rx.length = c.rxCount)
    (hst : ∀ u : State, u = { s with inp := answering a, script := is } →
      step u = Result.thenDo (busStep u c k) State.sample)
    (hv : (k { s with
      inp := answering a, script := is, busLog := s.busLog ++ [⟨c, a⟩], draws := s.draws + 1 } a).script = is)
    (hw : EndsAs (k { s with
      inp := answering a, script := is, busLog := s.busLog ++ [⟨c, a⟩], draws := s.draws + 1 } a) is w) :
    EndsAs s (answering a :: is) w := by
  have ha : ({ s with inp := answering a, script := is } : State).answerTo c = some a := by
    cases a with
    | ok rx => exact answerTo_oracle ho rfl (hl _ rfl)
    | err e => exact answerTo_err c rfl
  have h := hst _ rfl
  rw [busStep_answered _ ha] at h
  rw [State.logCall, chipAfter_oracle (s := { s with inp := answering a, script := is }) _ _ ho] at h
  exact endsAs_cons h hv hw

end Sys2Proof.Safety
end

