-- ==== Sys2Proof/Tests/Slice0.lean ====
section
/-! SUPPORT. The model's own tests. Every expected value is copied or worked by hand from the vectors of
95_test_vectors.md (named in each docstring) or from the table of the rule named. The second half shows, for each
obligation that has hypotheses, a concrete state and operands that meet all of them. -/

namespace Sys2Proof.Tests

open Sys2Proof.Machine Sys2Proof.Safety

/-! ### Helpers -/

/-- A small instance: two attempts, one tick. -/
def cfg : Config := { maxAttempts := 2, intervalTicks := 1, backend := .oracle, busyReads := 1 }

/-- The same with the chip behind the transport. -/
def chipCfg : Config := { cfg with backend := .chip }

/-- The machine in a state, with these ports. -/
def at_ (st : Phase) (inp : Inputs) : State := { State.reset with cfg := cfg, st := st, inp := inp }

/-- The machine in a state of a write of the two bytes 0x12, 0x34 to 0x0010 (program P2). -/
def writing (st : Phase) (inp : Inputs) : State :=
  { at_ st inp with op := .write, addr := 0x0010, len := 2, wbuf := [0x12, 0x34] }

/-- The machine in a state of a read of four bytes at 0x0040 (vector X1). -/
def reading (st : Phase) (inp : Inputs) : State := { at_ st inp with op := .read, addr := 0x0040, len := 4 }

/-- The state of an outcome, if it has one. -/
def next? (o : Host.Outcome State Fault Refusal) : Option State :=
  match o with
  | .next t => some t
  | .fault _ => none
  | .refused _ => none

/-- What a test looks at: the state register, the result and the new diagnostic events. -/
def seen (o : Host.Outcome State Fault Refusal) : Option (Phase × ResultCode × List DiagEvent) :=
  (next? o).map fun t => (t.st, t.res, t.diagLog)

/-! ### Ill-formed parameters are refused, one test for each check of R7 -/

def good : Params := Params.ofConfig cfg

theorem test_wf_good : good.wf = true := by decide
theorem test_wf_source : (Params.ofConfig Config.atReset).wf = true := by decide
theorem test_wf_no_attempts : ({ good with maxAttempts := 0 } : Params).wf = false := by decide
theorem test_wf_attempt_counter_too_narrow : ({ good with maxAttempts := 128 } : Params).wf = false := by decide
theorem test_wf_narrow_att_w : ({ good with maxAttempts := 100, attW := 6 } : Params).wf = false := by decide
theorem test_wf_no_page : ({ good with pageSize := 0 } : Params).wf = false := by decide
theorem test_wf_page_over_total : ({ good with totalSize := 255 } : Params).wf = false := by decide
theorem test_wf_no_busy_bit : ({ good with busyMask := 0 } : Params).wf = false := by decide
theorem test_wf_same_opcodes : ({ good with opcRead := 0x02 } : Params).wf = false := by decide
theorem test_wf_narrow_address : ({ good with addrW := 15 } : Params).wf = false := by decide
theorem test_wf_narrow_length : ({ good with lenW := 18 } : Params).wf = false := by decide

/-- Every term of Instr is well-formed: no encoding is reserved (R73). -/
theorem test_wf_instr : (Instr.reqWrite 0xFFFF 0xFFFFFFFF).wf = true := by decide

/-! ### Codes (R11, R70, R170, R190) -/

theorem test_state_codes :
    [Phase.detached, .probe, .idle, .rdXfer, .wrWren, .wrXfer, .pollRdsr, .pollWait, .respond].map Phase.code
      = [0, 1, 2, 3, 4, 5, 6, 7, 8] := by decide

theorem test_request_codes : [ReqOp.attach, .read, .write, .detach].map ReqOp.code = [0, 1, 2, 3] := by decide

theorem test_result_codes :
    [ResultCode.ok, .invalidArgument, .transportError, .timeout].map ResultCode.code = [0, 1, 2, 3] := by decide

theorem test_diag_codes :
    [DiagCode.attach, .detach, .oobRead, .oobWrite, .timeout].map DiagCode.code = [0, 1, 2, 3, 4] := by decide

/-! ### The framer (F1 to F8) and the decoder (every constructor, words written out from R61, R62, R70) -/

theorem test_framer :
    frameAddress 0x03 (0x0000 : Addr) = [0x03, 0x00, 0x00] ∧ frameAddress 0x03 (0xFFFF : Addr) = [0x03, 0xFF, 0xFF]
      ∧ frameAddress 0x02 (0x0100 : Addr) = [0x02, 0x01, 0x00] ∧ frameAddress 0x02 (0x00FF : Addr) = [0x02, 0x00, 0xFF]
      ∧ frameAddress 0x03 (0x1234 : Addr) = [0x03, 0x12, 0x34]
      ∧ frameAddress 0x02 (0xABCD : Addr) = [0x02, 0xAB, 0xCD] := by decide

theorem test_framer_wide :
    frameAddress 0x03 (0x10000 : BitVec 18) = [0x03, 0x00, 0x00]
      ∧ frameAddress 0x02 (0x3FFFF : BitVec 18) = [0x02, 0xFF, 0xFF] := by decide

/-- F9. -/
theorem test_decode_wren : decode (.frame [0x06]) = .ok .wren := rfl
/-- F9. -/
theorem test_decode_rdsr : decode (.frame [0x05]) = .ok .rdsr := rfl
/-- F5. -/
theorem test_decode_read : decode (.frame [0x03, 0x12, 0x34]) = .ok (.read 0x1234) := rfl
/-- F6. -/
theorem test_decode_write : decode (.frame [0x02, 0xAB, 0xCD]) = .ok (.write 0xABCD) := rfl
/-- X15: the junk is in the ignored bits. -/
theorem test_decode_attach : decode (.word 0x0FFFFFFFFFFFF) = .ok (.reqAttach 0xFFFFFFFFFFFF) := rfl
/-- V3. -/
theorem test_decode_req_read : decode (.word 0x1FFFF00030001) = .ok (.reqRead 0xFFFF 196609) := rfl
/-- S8. -/
theorem test_decode_req_write : decode (.word 0x201000000000A) = .ok (.reqWrite 0x0100 10) := rfl
/-- X11. -/
theorem test_decode_detach : decode (.word 0x3000000000000) = .ok (.reqDetach 0) := rfl

/-- R66, R67: what is no header is refused by name. -/
theorem test_decode_refuses :
    decode (.frame []) = .error .emptyFrame ∧ decode (.frame [0x04]) = .error (.unknownOpcode 0x04)
      ∧ decode (.frame [0x03, 0x12]) = .error (.shortHeader 0x03)
      ∧ decode (.frame [0x06, 0x00]) = .error .trailingBytes := ⟨rfl, rfl, rfl, rfl⟩

/-- The encoder writes the words of F5, V12 and X11. -/
theorem test_encode :
    encode (.read 0x1234) = .frame [0x03, 0x12, 0x34] ∧ encode (.reqWrite 0xFFFF 0xFFFFFFFF) = .word 0x2FFFFFFFFFFFF
      ∧ encode (.reqDetach 0) = .word 0x3000000000000 := by decide

/-! ### Requests -/

/-- X7 and X13: accepted in `S_DETACHED`, not in `S_IDLE`. -/
theorem test_attach : seen (exec (.reqAttach 0) (at_ .detached .quiet)) = some (.probe, .ok, []) := by decide
theorem test_attach_not_accepted : exec (.reqAttach 0) (at_ .idle .quiet) = .next (at_ .idle .quiet) := rfl

/-- V3, V1: the sum 262144 is accepted. -/
theorem test_read_accepted :
    seen (exec (.reqRead 0xFFFF 196609) (at_ .idle .quiet)) = some (.rdXfer, .ok, [])
      ∧ seen (exec (.reqRead 0 262144) (at_ .idle .quiet)) = some (.rdXfer, .ok, []) := by decide

/-- V2, V4, V5: 262145 is not, and the sum does not wrap. -/
theorem test_read_rejected :
    [(0x0001, 262144), (0xFFFF, 196610), (0xFFFF, 0xFFFFFFFF)].map
      (fun p : Addr × Len => seen (exec (.reqRead p.1 p.2) (at_ .idle .quiet)))
      = List.replicate 3 (some (.respond, .invalidArgument, [⟨.oobRead, 0x00⟩])) := by decide

/-- V8, V13, V14, V15: accepted, a page crossing and no data included. -/
theorem test_write_accepted :
    [(0x0000, 256), (0x00F0, 32), (0x0000, 0), (0xFFFF, 1)].map
      (fun p : Addr × Len => seen (exec (.reqWrite p.1 p.2) (at_ .idle .quiet)))
      = List.replicate 4 (some (.wrWren, .ok, [])) := by decide

/-- V9, V16: check 2, no diagnostic; V11, V12: check 1 comes first. -/
theorem test_write_rejected :
    [(0x0000, 257), (0x0000, 262144), (0x0000, 300000), (0xFFFF, 0xFFFFFFFF)].map
      (fun p : Addr × Len => seen (exec (.reqWrite p.1 p.2) (at_ .idle .quiet)))
      = [some (.respond, .invalidArgument, []), some (.respond, .invalidArgument, []),
          some (.respond, .invalidArgument, [⟨.oobWrite, 0x00⟩]),
          some (.respond, .invalidArgument, [⟨.oobWrite, 0x00⟩])] := by decide

/-- R15, R31: byte `i` of the data is bits `8i+7` to `8i`; the fourth byte is ignored (X5). -/
theorem test_write_captures :
    (next? (exec (.reqWrite 0xABCD 3) (at_ .idle { Inputs.quiet with wdata := 0x44332211 }))).map State.wbuf
      = some [0x11, 0x22, 0x33] := by decide +kernel

/-- X11. -/
theorem test_detach :
    seen (exec (.reqDetach 0) (at_ .idle .quiet)) = some (.respond, .ok, [⟨.detach, 0x00⟩]) := by decide

/-! ### Bus commands -/

/-- R110, R111. -/
theorem test_wren_ok :
    (next? (exec .wren (writing .wrWren (answering (.ok []))))).map (fun t => (t.st, t.busLog))
      = some (.wrXfer, [⟨.send [0x06], .ok []⟩]) := by decide
/-- X4. -/
theorem test_wren_err :
    (next? (exec .wren (writing .wrWren (answering (.err 7))))).map (fun t => (t.st, t.res, t.terr))
      = some (.respond, .transportError, 7) := by decide

/-- X8. -/
theorem test_rdsr_probe :
    seen (exec .rdsr (at_ .probe (answering (.ok [0xFF])))) = some (.respond, .ok, [⟨.attach, 0xFF⟩]) := by decide

/-- W9 and W10: 0xFE and 0x02 are ready, 0xFF is busy. -/
theorem test_rdsr_poll :
    [0xFE, 0x02, 0xFF].map (fun b : Byte =>
      (next? (exec .rdsr (writing .pollRdsr (answering (.ok [b]))))).map fun t => (t.st, t.attempt, t.ivlCnt))
      = [some (.respond, 0, 0), some (.respond, 0, 0), some (.pollWait, 1, 1)] := by decide

/-- W13: the second busy read of two is the timeout. -/
theorem test_rdsr_timeout :
    seen (exec .rdsr { writing .pollRdsr (answering (.ok [0x01])) with attempt := 1 })
      = some (.respond, .timeout, [⟨.timeout, 0x00⟩]) := by decide

/-- X1. -/
theorem test_read_ok :
    (next? (exec (.read 0x0040) (reading .rdXfer (answering (.ok [0xDE, 0xAD, 0xBE, 0xEF]))))).map
      (fun t => (t.st, t.res, t.rbuf, t.busLog))
      = some (.respond, .ok, [0xDE, 0xAD, 0xBE, 0xEF],
          [⟨.transceive [.tx [0x03, 0x00, 0x40], .rx 4], .ok [0xDE, 0xAD, 0xBE, 0xEF]⟩]) := by decide
/-- X2. -/
theorem test_read_err :
    (next? (exec (.read 0x0040) (reading .rdXfer (answering (.err 7))))).map
      (fun t => (t.st, t.res, t.terr, t.rbuf.length)) = some (.respond, .transportError, 7, 4) := by decide

/-- P2: bytes 02 00 10 12 34. -/
theorem test_write_ok :
    (next? (exec (.write 0x0010) (writing .wrXfer (answering (.ok []))))).map (fun t => (t.st, t.busLog))
      = some (.pollRdsr, [⟨.transceive [.tx [0x02, 0x00, 0x10], .tx [0x12, 0x34]], .ok []⟩]) := by decide
/-- X3. -/
theorem test_write_err :
    (next? (exec (.write 0x0010) (writing .wrXfer (answering (.err 7))))).map (fun t => (t.st, t.res, t.terr))
      = some (.respond, .transportError, 7) := by decide

/-! ### The other events -/

/-- R101: one tick at 3, one at 0, one in another state. -/
theorem test_tick :
    (next? (step { writing .pollWait ticking with ivlCnt := 3 })).map (fun t => (t.st, t.ivlCnt)) = some (.pollWait, 2)
      ∧ (next? (step (writing .pollWait ticking))).map State.st = some .pollRdsr
      ∧ (next? (step (at_ .idle ticking))).map State.st = some .idle := by decide

/-- R152: T22, T23, T24. -/
theorem test_respond :
    (next? (step { at_ .respond taking with op := .detach })).map State.st = some .detached
      ∧ (next? (step { at_ .respond taking with op := .attach, res := .transportError })).map State.st = some .detached
      ∧ (next? (step { at_ .respond taking with op := .attach })).map State.st = some .idle := by decide

/-- R152, R72: data only of a read that ended `OK`, the error value only with `TRANSPORT_ERROR`. -/
theorem test_response :
    ({ reading .respond taking with rbuf := [1, 2, 3, 4] } : State).response = ⟨.read, .ok, none, some [1, 2, 3, 4]⟩
      ∧ ({ reading .respond taking with res := .transportError, terr := 7 } : State).response
        = ⟨.read, .transportError, some 7, none⟩ := by decide

/-- R200: reset above all. -/
theorem test_reset_event :
    (next? (step (writing .wrXfer { answering (.ok []) with rst := true }))).map (fun t => (t.st, t.busLog))
      = some (.detached, []) := by decide

/-- R150: ready in `S_DETACHED` for an attach (word 0) and not for a read (X12). -/
theorem test_req_ready :
    (at_ .detached (requesting 0 0)).reqReady = true
      ∧ (at_ .detached (requesting 0x1000000000001 0)).reqReady = false := by decide

/-! ### Words placed where the step fetches -/

theorem test_place_commands :
    (next? (step (State.reset.withFetchWord 8 0x06))).map State.st = some .wrXfer
      ∧ (next? (step (State.reset.withFetchWord 8 0x05))).map State.st = some .respond
      ∧ (next? (step (State.reset.withFetchWord 24 0x030040))).map State.st = some .respond
      ∧ (next? (step (State.reset.withFetchWord 24 0x020040))).map State.st = some .pollRdsr := by decide

theorem test_place_requests :
    (next? (step (State.reset.withFetchWord 50 0x0000000000000))).map State.st = some .probe
      ∧ (next? (step (State.reset.withFetchWord 50 0x1004000000004))).map State.st = some .rdXfer
      ∧ (next? (step (State.reset.withFetchWord 50 0x2004000000004))).map State.st = some .wrWren
      ∧ (next? (step (State.reset.withFetchWord 50 0x3000000000000))).map State.st = some .respond := by decide

theorem test_table_words :
    decodeTableWord 8 0x06 = some .wren ∧ decodeTableWord 8 0x05 = some .rdsr
      ∧ decodeTableWord 24 0x031234 = some (.read 0x1234) ∧ decodeTableWord 24 0x02ABCD = some (.write 0xABCD)
      ∧ decodeTableWord 50 0x0FFFFFFFFFFFF = some (.reqAttach 0xFFFFFFFFFFFF)
      ∧ decodeTableWord 56 0x1004000000004 = some (.reqRead 0x0040 4)
      ∧ decodeTableWord 50 0x2004000000004 = some (.reqWrite 0x0040 4)
      ∧ decodeTableWord 50 0x3000000000000 = some (.reqDetach 0) ∧ decodeTableWord 8 0x04 = none := by decide

/-! ### The chip double (section 4 of 95) -/

/-- A WRITE with the latch set stores, consumes the latch and makes the chip busy. -/
theorem test_chip_write :
    let c := ({ Chip.fresh with wel := true } : Chip).deliver 1 0 (writeCall 0x0010 [0x12, 0x34])
    (c.mem, c.wel, c.busy) = ([(0x10, 0x12), (0x11, 0x34)], false, 1) := by decide

/-- WREN sets the latch, a status read of a busy chip counts down, a READ answers the array. -/
theorem test_chip_other :
    (Chip.fresh.deliver 1 0 wrenCall).wel = true
      ∧ (({ Chip.fresh with busy := 1 } : Chip).deliver 1 0 rdsrCall).busy = 0
      ∧ ({ Chip.fresh with mem := [(0x41, 0xAD)] } : Chip).reply 0 (readCall 0x0040 2) = [0x00, 0xAD] := by decide

/-- R47: a status read that failed leaves a ready chip ready; a READ leaves a ready chip as it is. -/
theorem test_chip_reads_without_effect :
    Chip.fresh.fail 0 rdsrCall = Chip.fresh ∧ Chip.fresh.fail 0 (readCall 0x0040 2) = Chip.fresh
      ∧ Chip.fresh.deliver 1 0 (readCall 0x0040 2) = Chip.fresh := by decide

/-- INTERVAL_TICKS 0, 1, 255 and 256 take 0, 1, 8 and 9 bits (R6: the least w with 2^w > INTERVAL_TICKS). -/
theorem test_ivlW :
    [0, 1, 255, 256].map (fun n => ivlW { cfg with intervalTicks := n }) = [0, 1, 8, 9] := by decide

/-- A WRITE of unknown effect touches the page of its first byte to that of its last (V13: 0x00F0, 32 bytes), and page 0 past
0xFFFF. -/
theorem test_touched_pages :
    touchedPages 0x00F0 32 = [0, 1] ∧ touchedPages 0x0010 2 = [0] ∧ touchedPages 0xFFFF 2 = [255, 256, 0]
      ∧ touchedPages 0x0010 0 = [] := by decide

/-- Writing the value an unlisted address reads as removes the entry. -/
theorem test_memory_canonical :
    Memory.write [(1, 7), (2, 8)] 1 0 = [(2, 8)] ∧ Memory.wf [(2, 8), (1, 7)] = false
      ∧ Memory.wf [(1, 0)] = false ∧ Memory.wf [(262144, 1)] = false ∧ Memory.write [] 262144 1 = [] := by decide

/-! ### Witnesses: for each obligation with hypotheses, a state and operands that meet all of them, clause by clause -/

theorem witness_FrameAddressBytes : 16 ≤ 16 ∧ 16 ≤ 18 := by decide

/-- F7: 0x10000 on 18 bits and 0 on 16. -/
theorem witness_HeadersAliasByLowBits :
    16 ≤ 18 ∧ 16 ≤ 16 ∧ frameAddress 0x03 (0x10000 : BitVec 18) = frameAddress 0x03 (0 : BitVec 16) := by decide

theorem witness_FramesReadWhole :
    decodeFrame [0x02, 0x01, 0x00, 0xAA] = .ok (.write 0x0100, [0xAA])
      ∧ ((0x04 : Byte) ≠ 0x02 ∧ (0x04 : Byte) ≠ 0x03 ∧ (0x04 : Byte) ≠ 0x05 ∧ (0x04 : Byte) ≠ 0x06)
      ∧ ((0x06 : Byte) = 0x02 ∨ (0x06 : Byte) = 0x03 ∨ (0x06 : Byte) = 0x05 ∨ (0x06 : Byte) = 0x06) :=
  ⟨rfl, by decide, by decide⟩

/-- A request at the port, and a command outstanding. -/
theorem witness_StepRunsDecoded :
    (fetch (at_ .detached (requesting 0 0)) = some (.word 0) ∧ decode (.word 0) = .ok (.reqAttach 0))
      ∧ (fetch (writing .wrXfer .quiet) = some (.frame [0x02, 0x00, 0x10])
        ∧ decode (.frame [0x02, 0x00, 0x10]) = .ok (.write 0x0010)) :=
  ⟨⟨rfl, rfl⟩, rfl, rfl⟩

/-- Answered and not answered, in two of the five states. -/
theorem witness_OutstandingCallIsMade :
    (reading .rdXfer .quiet).inp.rst = false ∧ (reading .rdXfer .quiet).outstandingCall = some (readCall 0x0040 4)
      ∧ (reading .rdXfer .quiet).answerTo (readCall 0x0040 4) = none
      ∧ (writing .pollRdsr (answering (.ok [1]))).inp.rst = false
      ∧ (writing .pollRdsr (answering (.ok [1]))).outstandingCall = some rdsrCall
      ∧ (writing .pollRdsr (answering (.ok [1]))).answerTo rdsrCall = some (.ok [1]) := by decide

theorem witness_AttachIsAccepted :
    (at_ .detached .quiet).st = .detached ∧ (at_ .idle .quiet).st ≠ .detached := by decide

/-- The sums 262144 and 262145 (V3, V4). -/
theorem witness_ReadIsValidated :
    (at_ .idle .quiet).st = .idle ∧ (0xFFFF : Addr).toNat + (196609 : Len).toNat = 262144
      ∧ (0xFFFF : Addr).toNat + (196610 : Len).toNat = 262145 := by decide

/-- The sum 262145; the sum 257 with 257 bytes; 256 bytes and none (V4, V9, V8, V14). -/
theorem witness_WriteIsValidated :
    (at_ .idle .quiet).st = .idle ∧ 262144 < (0xFFFF : Addr).toNat + (196610 : Len).toNat
      ∧ ((0 : Addr).toNat + (257 : Len).toNat ≤ 262144 ∧ 256 < (257 : Len).toNat)
      ∧ ((0 : Addr).toNat + (256 : Len).toNat ≤ 262144 ∧ (256 : Len).toNat ≤ 256)
      ∧ ((0 : Addr).toNat + (0 : Len).toNat ≤ 262144 ∧ (0 : Len).toNat ≤ 256) := by decide

theorem witness_DetachCompletes :
    (at_ .idle .quiet).st = .idle ∧ (at_ .detached .quiet).st ≠ .idle
      ∧ (let s := { at_ .respond taking with op := .detach }
        s.st = .respond ∧ s.op = .detach ∧ s.inp.rst = false ∧ s.inp.rspReady = true) := by decide

/-- X12 and X13 not accepted; X14 in a state that accepts nothing. -/
theorem witness_UnacceptedRequestsWait :
    ((at_ .detached (requesting 0x1000000000001 0)).inp.rst = false
        ∧ (at_ .detached (requesting 0x1000000000001 0)).inp.req = some 0x1000000000001
        ∧ (at_ .detached (requesting 0x1000000000001 0)).reqReady = false)
      ∧ ((at_ .idle (requesting 0 0)).inp.req = some 0 ∧ (at_ .idle (requesting 0 0)).reqReady = false)
      ∧ ((writing .pollWait .quiet).st ≠ .detached ∧ (writing .pollWait .quiet).st ≠ .idle) := by decide

theorem witness_ProbeSucceeds :
    (at_ .probe (answering (.ok [0xFF]))).st = .probe
      ∧ (at_ .probe (answering (.ok [0xFF]))).answerTo rdsrCall = some (.ok [0xFF]) := by decide

theorem witness_ProbeFails :
    (at_ .probe (answering (.err 7))).st = .probe
      ∧ (at_ .probe (answering (.err 7))).answerTo rdsrCall = some (.err 7) := by decide

theorem witness_WrenGoesOnOrFails :
    ((writing .wrWren (answering (.ok []))).st = .wrWren
        ∧ (writing .wrWren (answering (.ok []))).inp.bus = some (.ok []))
      ∧ (writing .wrWren (answering (.err 7))).inp.bus = some (.err 7) := by decide

theorem witness_ReadFillsBuffer :
    ((reading .rdXfer (answering (.ok [1, 2, 3, 4]))).st = .rdXfer
        ∧ (reading .rdXfer (answering (.ok [1, 2, 3, 4]))).answerTo (readCall 0x0040 4) = some (.ok [1, 2, 3, 4]))
      ∧ (reading .rdXfer (answering (.err 7))).inp.bus = some (.err 7) := by decide

theorem witness_WriteEntersPollOrFails :
    ((writing .wrXfer (answering (.ok []))).st = .wrXfer
        ∧ (writing .wrXfer (answering (.ok []))).inp.bus = some (.ok []))
      ∧ (writing .wrXfer (answering (.err 7))).inp.bus = some (.err 7) := by decide

theorem witness_PollErrorAborts :
    (writing .pollRdsr (answering (.err 7))).st = .pollRdsr
      ∧ (writing .pollRdsr (answering (.err 7))).inp.bus = some (.err 7) := by decide

theorem witness_PollReadySucceeds :
    (writing .pollRdsr (answering (.ok [0xFE]))).st = .pollRdsr
      ∧ (writing .pollRdsr (answering (.ok [0xFE]))).answerTo rdsrCall = some (.ok [0xFE])
      ∧ (0xFE : Byte).getLsbD 0 = false := by decide

/-- The last but one attempt of two. -/
theorem witness_PollBusyWaits :
    (writing .pollRdsr (answering (.ok [0x01]))).st = .pollRdsr
      ∧ (writing .pollRdsr (answering (.ok [0x01]))).answerTo rdsrCall = some (.ok [0x01])
      ∧ (0x01 : Byte).getLsbD 0 = true
      ∧ (writing .pollRdsr (answering (.ok [0x01]))).attempt.toNat + 1 < cfg.maxAttempts := by decide

/-- The last attempt of two. -/
theorem witness_PollBusyTimesOut :
    let s := { writing .pollRdsr (answering (.ok [0x01])) with attempt := 1 }
    s.st = .pollRdsr ∧ s.answerTo rdsrCall = some (.ok [0x01]) ∧ (0x01 : Byte).getLsbD 0 = true
      ∧ s.cfg.maxAttempts ≤ s.attempt.toNat + 1 := by decide

/-- At a poll and at attach. -/
theorem witness_StatusUpperBitsIgnored :
    (0x00 : Byte).getLsbD 0 = (0xFE : Byte).getLsbD 0
      ∧ (let s := writing .pollRdsr .quiet
        s.st = .pollRdsr ∧ s.cfg.backend = .oracle
          ∧ (∃ t, exec .rdsr { s with inp := { s.inp with bus := some (.ok [0x00]) } } = .next t)
          ∧ ∃ u, exec .rdsr { s with inp := { s.inp with bus := some (.ok [0xFE]) } } = .next u)
      ∧ (let s := at_ .probe .quiet
        s.st = .probe ∧ s.cfg.backend = .oracle
          ∧ (∃ t, exec .rdsr { s with inp := { s.inp with bus := some (.ok [0x00]) } } = .next t)
          ∧ ∃ u, exec .rdsr { s with inp := { s.inp with bus := some (.ok [0xFE]) } } = .next u) :=
  ⟨by decide, ⟨rfl, rfl, ⟨_, rfl⟩, _, rfl⟩, rfl, rfl, ⟨_, rfl⟩, _, rfl⟩

theorem witness_AnswersAreTheTransports :
    (at_ .probe (answering (.err 7))).inp.bus = some (.err 7)
      ∧ ((at_ .probe (answering (.ok [1]))).cfg.backend = .oracle
        ∧ (at_ .probe (answering (.ok [1]))).inp.bus = some (.ok [1]) ∧ [(1 : Byte)].length = rdsrCall.rxCount)
      ∧ (LegalCall rdsrCall ∧ (at_ .probe (answering (.ok [1]))).answerTo rdsrCall = some (.ok [1])) :=
  ⟨rfl, ⟨rfl, rfl, rfl⟩, .inr (.inl rfl), rfl⟩

theorem witness_UnansweredCommandsWait : (writing .wrWren .quiet).inp.bus = none := by decide

theorem witness_CommandsOnlyWhereOutstanding :
    ((at_ .idle .quiet).st ≠ .wrWren ∧ (at_ .idle .quiet).st ≠ .probe ∧ (at_ .idle .quiet).st ≠ .pollRdsr
        ∧ (at_ .idle .quiet).st ≠ .rdXfer ∧ (at_ .idle .quiet).st ≠ .wrXfer)
      ∧ (0x0041 : Addr) ≠ (reading .rdXfer .quiet).addr := by decide

/-- The count at 0, at 1, no tick, and another state. -/
theorem witness_TicksCountTheWait :
    let s := writing .pollWait ticking
    (s.st = .pollWait ∧ s.inp.rst = false ∧ s.inp.tick = true ∧ s.ivlCnt = 0)
      ∧ ({ s with ivlCnt := 1 } : State).ivlCnt ≠ 0 ∧ (writing .pollWait .quiet).inp.tick = false
      ∧ (at_ .idle ticking).st ≠ .pollWait := by decide

theorem witness_WaitLastsItsTicks :
    (writing .pollWait .quiet).st = .pollWait ∧ 0 ≤ (writing .pollWait .quiet).ivlCnt := by decide

theorem witness_ResponseIsDelivered :
    ((at_ .respond taking).st = .respond ∧ (at_ .respond taking).inp.rst = false
        ∧ (at_ .respond taking).inp.rspReady = true)
      ∧ (at_ .respond .quiet).inp.rspReady = false := by decide

/-- In a transaction and in a resting state. -/
theorem witness_ResetEndsEverything :
    (writing .pollWait { Inputs.quiet with rst := true }).inp.rst = true
      ∧ (at_ .idle { Inputs.quiet with rst := true }).st = .idle := by decide

/-- The state of program P2 at its second status read: the log holds WREN, WRITE and one busy read. -/
def polling : State :=
  { writing .pollRdsr (answering (.ok [0x01])) with
    attempt := 1
    busLog := [wrenEntry, writeEntry 0x0010 [0x12, 0x34], rdsrEntry 0x01] }

theorem witness_StepKeepsInv : MachineInv polling ∧ ∃ t, step polling = .next t := by
  refine ⟨⟨by decide, by decide, by decide, ?_⟩, _, rfl⟩
  show polling.op = .write ∧ (polling.addr.toNat + polling.len.toNat ≤ Config.totalSize
    ∧ polling.len.toNat ≤ Config.pageSize ∧ polling.wbuf.length = polling.len.toNat)
    ∧ polling.attempt.toNat < polling.cfg.maxAttempts
  decide

theorem witness_StepKeepsLogLegal : LogLegal polling.busLog ∧ ∃ t, step polling = .next t := by
  refine ⟨?_, _, rfl⟩
  intro e he
  simp only [polling, List.mem_cons, List.not_mem_nil, or_false] at he
  rcases he with rfl | rfl | rfl
  · exact ⟨.inl rfl, by rintro rx ⟨⟩; rfl⟩
  · exact ⟨.inr (.inr (.inr ⟨0x0010, _, rfl⟩)), by rintro rx ⟨⟩; rfl⟩
  · exact ⟨.inr (.inl rfl), by rintro rx ⟨⟩; rfl⟩

/-- A write with its WREN done, about to send the WRITE message. -/
theorem witness_StepKeepsWrenBeforeWrite :
    let s := { writing .wrXfer (answering (.ok [])) with busLog := [wrenEntry] }
    WrenBeforeWrite s.busLog ∧ (s.st = .wrXfer → ∃ p, s.busLog = p ++ [wrenEntry]) ∧ ∃ t, step s = .next t := by
  refine ⟨?_, fun _ => ⟨[], rfl⟩, _, rfl⟩
  intro p a d ans rest h
  rcases p with _ | ⟨x, p⟩
  · simp [wrenEntry, wrenCall, writeCall] at h
  · simp at h

theorem witness_StepKeepsWriteProgress : MachineInv polling ∧ WriteProgress polling ∧ ∃ t, step polling = .next t := by
  refine ⟨witness_StepKeepsInv.1, ?_, _, rfl⟩
  exact ⟨[], [0x01], rfl, rfl, by decide⟩

theorem witness_StepKeepsParameters : ∃ t, step polling = .next t := ⟨_, rfl⟩

theorem witness_StateMovesByTheTable :
    (∃ t, step { polling with inp := { polling.inp with rst := true } } = .next t)
      ∧ polling.inp.rst = false ∧ ∃ t, step polling = .next t := ⟨⟨_, rfl⟩, rfl, _, rfl⟩

theorem witness_OneCallPerStep : polling.inp.rst = false ∧ ∃ t, step polling = .next t := ⟨rfl, _, rfl⟩

theorem witness_DeliveredOnLeavingRespond :
    (at_ .respond taking).inp.rst = false ∧ ∃ t, step (at_ .respond taking) = .next t := ⟨rfl, _, rfl⟩

/-- A step without reset for each of the five events (X8; W13; X11; V4; V11), and one that emits none (V9). -/
theorem witness_DiagnosticsAreTheFive :
    [(at_ .probe (answering (.ok [0xFF]))),
        { writing .pollRdsr (answering (.ok [0x01])) with attempt := 1 },
        (at_ .idle (requesting 0x3000000000000 0)),
        (at_ .idle (requesting (requestWord .read 0xFFFF 196610) 0)),
        (at_ .idle (requesting (requestWord .write 0x0000 300000) 0)),
        (at_ .idle (requesting (requestWord .write 0x0000 257) 0))].map
      (fun s => (s.inp.rst, (next? (step s)).map State.diagLog))
      = [(false, some [⟨.attach, 0xFF⟩]), (false, some [⟨.timeout, 0x00⟩]), (false, some [⟨.detach, 0x00⟩]),
        (false, some [⟨.oobRead, 0x00⟩]), (false, some [⟨.oobWrite, 0x00⟩]), (false, some [])] := by decide

/-- A handle that comes to exist, and one that ceases to. -/
theorem witness_HandleLifecycle :
    (MachineInv (at_ .respond taking) ∧ (at_ .respond taking).inp.rst = false
        ∧ (at_ .respond taking).handleExists = false
        ∧ ∃ t, step (at_ .respond taking) = .next t ∧ t.handleExists = true)
      ∧ (MachineInv (at_ .idle (requesting 0x3000000000000 0))
        ∧ (at_ .idle (requesting 0x3000000000000 0)).inp.rst = false
        ∧ (at_ .idle (requesting 0x3000000000000 0)).handleExists = true
        ∧ ∃ t, step (at_ .idle (requesting 0x3000000000000 0)) = .next t ∧ t.handleExists = false) :=
  ⟨⟨⟨by decide, by decide, by decide, .inl rfl⟩, rfl, rfl, _, rfl, rfl⟩, ⟨by decide, by decide, by decide, trivial⟩, rfl, rfl, _,
    rfl, rfl⟩

/-- Two machines at the second status read that differ in the stale registers. -/
theorem witness_StaleRegistersMakeNoDifference :
    MachineInv polling ∧ SameLive polling { polling with status := 0xFF, rbuf := [1], ivlCnt := 9, terr := 3 }
      ∧ ∃ t, step polling = .next t :=
  ⟨witness_StepKeepsInv.1, ⟨rfl, rfl, rfl, rfl, rfl, rfl, rfl, rfl, rfl, rfl, rfl, rfl, rfl⟩, _, rfl⟩

/-- W13. -/
theorem witness_WaitReadyTimesOut :
    let s := writing .pollRdsr .quiet
    s.cfg.wf = true ∧ s.cfg.backend = .oracle ∧ s.st = .pollRdsr ∧ s.attempt = 0
      ∧ [(0x01 : Byte), 0x01].length = s.cfg.maxAttempts ∧ ∀ b ∈ [(0x01 : Byte), 0x01], busy b = true := by decide

/-- W10. -/
theorem witness_WaitReadySucceeds :
    let s := writing .pollRdsr .quiet
    s.cfg.wf = true ∧ s.cfg.backend = .oracle ∧ s.st = .pollRdsr ∧ s.attempt = 0
      ∧ [(0xFF : Byte)].length < s.cfg.maxAttempts ∧ (∀ x ∈ [(0xFF : Byte)], busy x = true)
      ∧ busy 0x02 = false := by decide

/-- W6. -/
theorem witness_WaitReadyAborts :
    let s := writing .pollRdsr .quiet
    s.cfg.wf = true ∧ s.cfg.backend = .oracle ∧ s.st = .pollRdsr ∧ s.attempt = 0
      ∧ [(0x01 : Byte)].length < s.cfg.maxAttempts ∧ ∀ x ∈ [(0x01 : Byte)], busy x = true := by decide

/-- V4 at the sum 262145, X1 with its answer, and V3 at the sum 262144, answered and failed. -/
theorem witness_ReadTransaction :
    ((at_ .idle .quiet).st = .idle ∧ (at_ .idle .quiet).cfg.backend = .oracle)
      ∧ (0xFFFF : Addr).toNat + (196610 : Len).toNat = 262145
      ∧ ((0x0040 : Addr).toNat + (4 : Len).toNat ≤ 262144
        ∧ [(0xDE : Byte), 0xAD, 0xBE, 0xEF].length = (4 : Len).toNat)
      ∧ ((0xFFFF : Addr).toNat + (196609 : Len).toNat = 262144
        ∧ (List.replicate 196609 (0x5A : Byte)).length = (196609 : Len).toNat) :=
  ⟨by decide, by decide, by decide, by decide, List.length_replicate⟩

/-- The sum 262145 (V4's range), V11, V9, V8. -/
theorem witness_WriteTransactionEndsEarly :
    (at_ .idle .quiet).st = .idle ∧ (at_ .idle .quiet).cfg.backend = .oracle
      ∧ ((0xFFFF : Addr).toNat + (196610 : Len).toNat = 262145 ∧ 262144 < (0 : Addr).toNat + (300000 : Len).toNat)
      ∧ ((0 : Addr).toNat + (257 : Len).toNat ≤ 262144 ∧ 256 < (257 : Len).toNat)
      ∧ ((0 : Addr).toNat + (256 : Len).toNat ≤ 262144 ∧ (256 : Len).toNat ≤ 256) := by decide

/-- One busy read then an error or a ready read (W6, W10), and two busy reads of two (W13). -/
theorem witness_WriteTransactionPolls :
    let s := at_ .idle .quiet
    (s.st = .idle ∧ s.cfg.backend = .oracle ∧ s.cfg.wf = true ∧ (0x0010 : Addr).toNat + (2 : Len).toNat ≤ 262144
        ∧ (2 : Len).toNat ≤ 256)
      ∧ ((∀ b ∈ [(0x01 : Byte)], busy b = true) ∧ [(0x01 : Byte)].length < s.cfg.maxAttempts ∧ busy 0x02 = false)
      ∧ ((∀ b ∈ [(0x01 : Byte), 0x01], busy b = true) ∧ [(0x01 : Byte), 0x01].length = s.cfg.maxAttempts) := by
  decide

/-- The chip's machine in a state. -/
def chipAt (st : Phase) (inp : Inputs) : State := { writing st inp with cfg := chipCfg }

/-- A command that stores nothing, a READ of a ready and of a busy chip, the WRITE, and a poll that fails and one that waits, each
with a page outside the one addressed. -/
theorem witness_ArrayFrame :
    ((∃ t, exec .wren (chipAt .wrWren (answering (.ok []))) = .next t)
        ∧ (∀ a : Addr, Instr.wren ≠ .write a) ∧ (∀ a : Addr, Instr.wren ≠ .read a)
        ∧ ¬(Instr.wren = .rdsr ∧ Phase.wrWren = .pollRdsr))
      ∧ (let s := chipAt .rdXfer (answering (.ok []))
        s.chip.busy = 0 ∧ (∃ t, exec (.read 0x0010) s = .next t)
          ∧ ∃ t, exec (.read 0x0010) { s with chip := { Chip.fresh with busy := 1 } } = .next t)
      ∧ ((∃ t, exec (.write 0x0010) (chipAt .wrXfer (answering (.err 7))) = .next t)
        ∧ pageOf 256 ∉ touchedPages 0x0010 2 ∧ pageOf 255 ∈ touchedPages 0x0010 2)
      ∧ ((∃ t, exec .rdsr (chipAt .pollRdsr (answering (.err 7))) = .next t ∧ t.st = .respond ∧ t.res = .transportError)
        ∧ ∃ t, exec .rdsr (chipAt .pollRdsr .quiet) = .next t ∧ ¬(t.st = .respond ∧ t.res ≠ .ok)) := by
  refine ⟨⟨⟨_, rfl⟩, ?_, ?_, by decide⟩, ⟨rfl, ⟨_, rfl⟩, _, rfl⟩, ⟨⟨_, rfl⟩, by decide, by decide⟩,
    ⟨_, rfl, rfl, rfl⟩, _, rfl, by decide⟩ <;> intro a h <;> cases h

theorem witness_ChipTakesWrenAndStatus :
    let w := chipAt .wrWren (answering (.ok []))
    let p := chipAt .pollRdsr (answering (.ok []))
    let b : State := { p with chip := { Chip.fresh with busy := 1 } }
    (w.cfg.backend = .chip ∧ w.st = .wrWren ∧ w.inp.bus = some (.ok []) ∧ w.chip.busy = 0)
      ∧ (chipAt .probe (answering (.ok []))).st = .probe
      ∧ (p.st = .pollRdsr ∧ p.chip.busy = 0)
      ∧ (b.chip.busy ≠ 0 ∧ b.attempt.toNat + 1 < b.cfg.maxAttempts) := by decide

/-- A write that ends exactly at the end of its page. -/
theorem witness_ChipStoresPageWrite :
    let s : State :=
      { chipAt .wrXfer (answering (.ok [])) with addr := 0x00FE, chip := { Chip.fresh with wel := true } }
    s.cfg.backend = .chip ∧ s.st = .wrXfer ∧ s.inp.bus = some (.ok []) ∧ Memory.wf s.chip.mem = true
      ∧ s.chip.busy = 0 ∧ s.chip.wel = true ∧ s.wbuf ≠ [] ∧ s.addr.toNat % 256 + s.wbuf.length = 256 := by decide

/-- A read that ends exactly at 0x10000. -/
theorem witness_ChipReturnsArray :
    let s : State := { chipAt .rdXfer (answering (.ok [])) with addr := 0xFFFE }
    s.cfg.backend = .chip ∧ s.st = .rdXfer ∧ s.inp.bus = some (.ok []) ∧ s.chip.busy = 0
      ∧ s.addr.toNat + s.len.toNat = 65536 := by decide

/-- P5: a whole page. -/
theorem witness_RoundTripThroughChip :
    let s := chipAt .idle .quiet
    s.cfg.backend = .chip ∧ s.cfg.wf = true ∧ s.st = .idle ∧ Memory.wf s.chip.mem = true ∧ s.chip.busy = 0
      ∧ s.cfg.busyReads < s.cfg.maxAttempts ∧ 0 < (256 : Len).toNat
      ∧ (0x1200 : Addr).toNat % 256 + (256 : Len).toNat ≤ 256 := by decide

theorem witness_IvlWidthIsLeast : cfg.intervalTicks < 2 ^ 1 := by decide

/-- Each of the five states, and a write whose buffer is as long as `len`. -/
theorem witness_CallPortsShowTheCall :
    (writing .wrWren .quiet).st = .wrWren ∧ (at_ .probe .quiet).st = .probe ∧ (writing .pollRdsr .quiet).st = .pollRdsr
      ∧ (reading .rdXfer .quiet).st = .rdXfer
      ∧ ((writing .wrXfer .quiet).st = .wrXfer ∧ (writing .wrXfer .quiet).wbuf.length = (writing .wrXfer .quiet).len.toNat) := by
  decide

end Sys2Proof.Tests
end

/-! The parameters of 00_scope.md: what the check of R7 and R6 asks, and that the source's values meet it. -/

namespace Sys2Proof

/-- Four entries are pairwise distinct: R7's wording of "the four opcodes differ". -/
theorem nodup_four_iff {α : Type} (a b c d : α) :
    [a, b, c, d].Nodup ↔ a ≠ b ∧ a ≠ c ∧ a ≠ d ∧ b ≠ c ∧ b ≠ d ∧ c ≠ d := by
  simp only [List.nodup_cons, List.mem_cons, List.not_mem_nil, or_false, not_or, not_false_eq_true,
    List.nodup_nil, and_true, and_assoc, ne_eq]

/-- The Boolean check read as its eight constraints, R7's in the spec's order and then R6's for `ATT_W`. -/
theorem Params.wf_iff (p : Params) :
    p.wf = true ↔
      1 ≤ p.maxAttempts ∧ 1 ≤ p.pageSize ∧ p.pageSize ≤ p.totalSize ∧ p.busyMask ≠ 0
        ∧ [p.opcRead, p.opcWrite, p.opcWren, p.opcRdsr].Nodup
        ∧ 16 ≤ p.addrW ∧ p.totalSize < 2 ^ p.lenW ∧ p.maxAttempts < 2 ^ p.attW := by
  simp only [Params.wf, Bool.and_eq_true, decide_eq_true_eq, and_assoc]

/-- The source's 100 attempts lie in the range that `Machine.wf_iff` leaves an instance. -/
theorem Config.atReset_wf : Config.atReset.wf = true :=
  (Machine.wf_iff Config.atReset).mpr (by decide)

/-- Settles O8: the check is its list of constraints, where the opcodes' `Nodup` is the six inequalities. -/
theorem parameterChecks : Obligations.ParameterChecks := by
  refine ⟨fun p => ?_, Config.atReset_wf⟩
  rw [Params.wf_iff, nodup_four_iff]

end Sys2Proof

/-! The command framer (40_command_framer.md R80): the header's bytes as arithmetic on the address. -/

namespace Sys2Proof

open Sys2Proof.Machine

/-- The byte at bit `k` is the number shifted down by `k`, of any width: the slice reads zeros past the width. -/
theorem byteAt_eq_ofNat {w : Nat} (addr : BitVec w) (k : Nat) :
    addr.extractLsb' k 8 = BitVec.ofNat 8 (addr.toNat / 2 ^ k) := by
  rw [BitVec.extractLsb', Nat.shiftRight_eq_div_pow]

/-- The header from the address's number. R80 speaks of widths from 16 on; the equation does not depend on the width. -/
theorem frameAddress_eq_ofNat {w : Nat} (opc : Byte) (addr : BitVec w) :
    frameAddress opc addr = [opc, BitVec.ofNat 8 (addr.toNat / 256), BitVec.ofNat 8 addr.toNat] := by
  have high : addr.extractLsb' 8 8 = BitVec.ofNat 8 (addr.toNat / 256) := byteAt_eq_ofNat addr 8
  have low : addr.extractLsb' 0 8 = BitVec.ofNat 8 addr.toNat := by
    rw [byteAt_eq_ofNat, Nat.pow_zero, Nat.div_one]
  rw [frameAddress, high, low]

/-- Settles O1: each address byte is its slice read as a number. -/
theorem frameAddressBytes : Obligations.FrameAddressBytes :=
  fun _ opc addr _ => frameAddress_eq_ofNat opc addr

end Sys2Proof

/-! The status poller (41_status_poller.md): the busy test (R91) and the four answers to a status read of `wait_ready`
(R93 to R96). -/

namespace Sys2Proof

open Sys2Proof.Machine Sys2Proof.Safety

/-! ### The busy test -/

/-- The busy test as R91 writes it, with the mask's value. -/
theorem busy_iff (s : Byte) : busy s = true ↔ s &&& 0x01 ≠ 0 :=
  decide_eq_true_iff

/-- Masking with 0x01 leaves bit 0 alone, so that the test reads this bit. -/
theorem busy_eq_getLsbD (s : Byte) : busy s = s.getLsbD 0 := by
  have masked : s &&& Config.busyMask = (BitVec.ofBool (s.getLsbD 0)).setWidth 8 :=
    BitVec.and_one_eq_setWidth_ofBool_getLsbD
  rw [busy, masked]
  cases s.getLsbD 0 <;> rfl

/-- Settles O9: the mask test as written, and as bit 0. -/
theorem busyIsBitZero : Obligations.BusyIsBitZero :=
  ⟨busy_iff, busy_eq_getLsbD⟩

/-! ### The answer to a status read -/

/-- A lost write changes at most the chip and the draw counter, and with the oracle not even the chip (R178, log 11). -/
theorem loseWrite_frame (s : State) :
    ∃ c n, s.loseWrite = { s with chip := c, draws := n } ∧ (s.cfg.backend = .oracle → c = s.chip) := by
  cases hb : s.cfg.backend with
  | oracle => exact ⟨s.chip, s.draws, loseWrite_oracle hb, fun _ => rfl⟩
  | chip =>
    refine ⟨s.chip.loseWrite s.draws s.addr.toNat s.len.toNat, s.draws + 1, ?_, nofun⟩
    rw [State.loseWrite, hb]

/-- R94: a ready byte completes, whatever the attempt. -/
theorem afterPoll_ready (s : State) {b : Byte} (hb : busy b = false) :
    afterPoll s (.ok [b]) = ({ s with status := b } : State).complete := by
  simp [afterPoll, statusOf, hb]

/-- R95: a busy byte with attempts left counts the attempt and loads the timer. -/
theorem afterPoll_busy_waits (s : State) {b : Byte} (hb : busy b = true)
    (hn : s.attempt.toNat + 1 < s.cfg.maxAttempts) :
    afterPoll s (.ok [b]) =
      { s with status := b, attempt := s.attempt + 1, ivlCnt := s.cfg.intervalTicks, st := .pollWait } := by
  simp [afterPoll, statusOf, hb, (attemptsLeft_iff _ _).mpr hn]

/-- R96: a busy byte on the last attempt raises the timeout after its event; the lost write touches the chip alone. -/
theorem afterPoll_busy_timesOut (s : State) {b : Byte} (hb : busy b = true)
    (hn : s.cfg.maxAttempts ≤ s.attempt.toNat + 1) :
    ∃ c n, afterPoll s (.ok [b]) =
        (({ s with status := b, chip := c, draws := n } : State).emit .timeout 0x00).raise .timeout
      ∧ (s.cfg.backend = .oracle → c = s.chip) := by
  obtain ⟨c, n, hlose, hchip⟩ := loseWrite_frame { s with status := b }
  refine ⟨c, n, ?_, hchip⟩
  simp [afterPoll, statusOf, hb, attemptsLeft_iff, Nat.not_lt.mpr hn, hlose]

/-- R93: an error is raised as it is; the lost write touches the chip alone. -/
theorem afterPoll_err (s : State) (e : TErr) :
    ∃ c n, afterPoll s (.err e) = ({ s with chip := c, draws := n } : State).raise (.transportError e)
      ∧ (s.cfg.backend = .oracle → c = s.chip) := by
  obtain ⟨c, n, hlose, hchip⟩ := loseWrite_frame s
  exact ⟨c, n, by rw [afterPoll, hlose], hchip⟩

/-! ### RDSR in `S_POLL_RDSR` -/

/-- The status read of `wait_ready`, answered: logged, then acted on (R92, R153). -/
theorem exec_rdsr_poll {s : State} {a : Answer} (hs : s.st = .pollRdsr) (ha : s.answerTo rdsrCall = some a) :
    exec .rdsr s = .next (afterPoll (s.logCall rdsrCall a) a) := by
  have notProbe : s.st ≠ .probe := by simp [hs]
  rw [exec, execRdsr, if_neg notProbe, if_pos hs, busStep_answered afterPoll ha]

/-- Settles O23: the error is raised from the state that the logged call left, whatever the attempt. -/
theorem pollErrorAborts : Obligations.PollErrorAborts := by
  intro s e hs hbus
  have hexec := exec_rdsr_poll hs (answerTo_err rdsrCall hbus)
  obtain ⟨c, n, hpoll, hchip⟩ := afterPoll_err (s.logCall rdsrCall (.err e)) e
  rw [hpoll] at hexec
  exact ⟨_, hexec, rfl, fun ho => (hchip ho).trans (chipAfter_oracle _ _ ho)⟩

/-- Settles O24: the ready branch of the poll, which does not look at the attempt. -/
theorem pollReadySucceeds : Obligations.PollReadySucceeds := by
  intro s b hs ha hb
  have hexec := exec_rdsr_poll hs ha
  rw [afterPoll_ready _ ((busy_eq_getLsbD b).trans hb)] at hexec
  exact ⟨_, hexec, rfl, chipAfter_oracle _ _⟩

/-- Settles O25: the busy branch of the poll below the bound. -/
theorem pollBusyWaits : Obligations.PollBusyWaits := by
  intro s b hs ha hb hn
  have hexec := exec_rdsr_poll hs ha
  rw [afterPoll_busy_waits (s.logCall rdsrCall (.ok [b])) ((busy_eq_getLsbD b).trans hb) hn] at hexec
  exact ⟨_, hexec, rfl, chipAfter_oracle _ _⟩

/-- Settles O26: the busy branch of the poll at the bound. -/
theorem pollBusyTimesOut : Obligations.PollBusyTimesOut := by
  intro s b hs ha hb hn
  have hexec := exec_rdsr_poll hs ha
  obtain ⟨c, n, hpoll, hchip⟩ :=
    afterPoll_busy_timesOut (s.logCall rdsrCall (.ok [b])) ((busy_eq_getLsbD b).trans hb) hn
  rw [hpoll] at hexec
  exact ⟨_, hexec, rfl, fun ho => (hchip ho).trans (chipAfter_oracle _ _ ho)⟩

end Sys2Proof

/-! The read transaction (43_read_transaction.md): validation of the request (R115) and the READ message (R116). -/

namespace Sys2Proof

open Sys2Proof.Machine Sys2Proof.Safety

/-! ### Validation -/

/-- A request that the state accepts latches `op` and takes its validation's step (R150, R151). -/
theorem acceptRequest_accepted {s : State} {r : ReqOp} (f : State → State) (ha : accepts s.st r = true) :
    acceptRequest s r f = .next (f { s with op := r }) :=
  if_pos ha

/-- R115: a range whose exact sum lies in the array is latched, and the READ message is next. -/
theorem beginRead_inRange {addr : Addr} {len : Len} (h : addr.toNat + len.toNat ≤ 262144) (s : State) :
    beginRead addr len s = { s with addr := addr, len := len, st := .rdXfer } :=
  if_pos ((inArray_iff addr len).mpr h)

/-- R115: a larger sum raises the failure after its event, and latches nothing. -/
theorem beginRead_outOfRange {addr : Addr} {len : Len} (h : 262144 < addr.toNat + len.toNat) (s : State) :
    beginRead addr len s = (s.emit .oobRead 0x00).raise .invalidArgument :=
  if_neg fun inRange => Nat.not_le.mpr h ((inArray_iff addr len).mp inRange)

/-- A read in `S_IDLE` is accepted, whatever its range: `op` is latched before the range is checked. -/
theorem exec_reqRead_idle {s : State} (addr : Addr) (len : Len) (hs : s.st = .idle) :
    exec (.reqRead addr len) s = .next (beginRead addr len { s with op := .read }) := by
  have accepted : accepts s.st .read = true := by rw [hs]; rfl
  rw [exec, execReqRead, acceptRequest_accepted _ accepted]

/-- Settles O14: the two branches of the range check, taken at the exact sum. -/
theorem readIsValidated : Obligations.ReadIsValidated := by
  intro addr len s hs
  have hexec := exec_reqRead_idle addr len hs
  constructor
  · intro inRange
    rw [hexec, beginRead_inRange inRange]
  · intro outOfRange
    rw [beginRead_outOfRange outOfRange] at hexec
    exact ⟨_, hexec, rfl⟩

/-! ### The READ message -/

/-- The READ message's descriptors, with the header's bytes as arithmetic on the address (R80, R116). -/
theorem readCall_eq_ofNat (a : Addr) (n : Nat) :
    readCall a n =
      .transceive [.tx [0x03, BitVec.ofNat 8 (a.toNat / 256), BitVec.ofNat 8 a.toNat], .rx n] := by
  rw [readCall, frameAddress_eq_ofNat, Config.opcRead]

/-- The READ message of `S_RD_XFER`, answered: logged, then acted on (R116, R153). -/
theorem exec_read_rdXfer {s : State} {a : Answer} (hs : s.st = .rdXfer)
    (ha : s.answerTo (readCall s.addr s.len.toNat) = some a) :
    exec (.read s.addr) s = .next (afterRead (s.logCall (readCall s.addr s.len.toNat) a) a) := by
  rw [exec, execRead, if_pos ⟨hs, rfl⟩, busStep_answered afterRead ha]

/-- Settles O21: the received bytes complete the read; an error is raised over `len` bytes of a free draw. -/
theorem readFillsBuffer : Obligations.ReadFillsBuffer := by
  intro s hs
  constructor
  · intro rx ha
    have hexec := exec_read_rdXfer hs ha
    rw [← readCall_eq_ofNat]
    exact ⟨_, hexec, rfl, chipAfter_oracle _ _⟩
  · intro e hbus
    have hexec := exec_read_rdXfer hs (answerTo_err _ hbus)
    have junkLength := anyBytes_length (Config.anyReadByte (s.draws + 1)) s.len.toNat
    rw [← readCall_eq_ofNat]
    exact ⟨_, junkLength, _, hexec, rfl, chipAfter_oracle _ _⟩

end Sys2Proof

/-! The write transaction (44_write_transaction.md): validation of the request and capture of its data (R125), and the WRITE
message (R128). -/

namespace Sys2Proof

open Sys2Proof.Machine Sys2Proof.Safety

/-! ### Validation -/

/-- The captured bytes are the port's low bytes in index order, read as arithmetic on the port's number (R31, R125). -/
theorem captureData_getElem? (d : WData) {n i : Nat} (hi : i < n) :
    (captureData d n)[i]? = some (BitVec.ofNat 8 (d.toNat / 2 ^ (8 * i))) := by
  have byte : wdataByte d i = BitVec.ofNat 8 (d.toNat / 2 ^ (8 * i)) := byteAt_eq_ofNat d (8 * i)
  rw [captureData, List.getElem?_map, List.getElem?_range hi, Option.map_some, byte]

/-- R125, check 1: a sum past the array raises the failure after its event, and latches nothing. -/
theorem beginWrite_outOfRange {addr : Addr} {len : Len} (h : 262144 < addr.toNat + len.toNat) (s : State) :
    beginWrite addr len s = (s.emit .oobWrite 0x00).raise .invalidArgument :=
  if_neg fun inRange => Nat.not_le.mpr h ((inArray_iff addr len).mp inRange)

/-- R125, check 2: inside the array but longer than a page, the failure is raised without an event. -/
theorem beginWrite_overPage {addr : Addr} {len : Len} (hr : addr.toNat + len.toNat ≤ 262144) (hp : 256 < len.toNat)
    (s : State) : beginWrite addr len s = s.raise .invalidArgument := by
  have notFits : ¬ fitsPage len = true := fun fits => Nat.not_le.mpr hp ((fitsPage_iff len).mp fits)
  rw [beginWrite, if_pos ((inArray_iff addr len).mpr hr), if_neg notFits]

/-- R125: past both checks the request is latched with its data, and WREN is next. -/
theorem beginWrite_valid {addr : Addr} {len : Len} (hr : addr.toNat + len.toNat ≤ 262144) (hp : len.toNat ≤ 256)
    (s : State) :
    beginWrite addr len s =
      { s with addr := addr, len := len, wbuf := captureData s.inp.wdata len.toNat, st := .wrWren } := by
  rw [beginWrite, if_pos ((inArray_iff addr len).mpr hr), if_pos ((fitsPage_iff len).mpr hp)]

/-- A write in `S_IDLE` is accepted, whatever its range: `op` is latched before the checks. -/
theorem exec_reqWrite_idle {s : State} (addr : Addr) (len : Len) (hs : s.st = .idle) :
    exec (.reqWrite addr len) s = .next (beginWrite addr len { s with op := .write }) := by
  have accepted : accepts s.st .write = true := by rw [hs]; rfl
  rw [exec, execReqWrite, acceptRequest_accepted _ accepted]

/-- Settles O15: the three branches of the two checks; the accepted one captures `captureData` of the port. -/
theorem writeIsValidated : Obligations.WriteIsValidated := by
  intro addr len s hs
  have hexec := exec_reqWrite_idle addr len hs
  refine ⟨fun outOfRange => ?_, fun inRange overPage => ?_, fun inRange fits => ?_⟩
  · rw [beginWrite_outOfRange outOfRange] at hexec
    exact ⟨_, hexec, rfl⟩
  · rw [beginWrite_overPage inRange overPage] at hexec
    exact ⟨_, hexec, rfl⟩
  · rw [beginWrite_valid inRange fits] at hexec
    exact ⟨_, captureData_length _ _, fun _ hi => captureData_getElem? _ hi, hexec⟩

/-! ### The WRITE message -/

/-- A call that receives nothing is answered `Ok` with no byte, whatever the port shows and whoever stands behind it. -/
theorem answerTo_ok_of_receives_nothing {s : State} {rx : List Byte} {c : Call} (hbus : s.inp.bus = some (.ok rx))
    (hc : c.rxCount = 0) (hr : (s.chip.reply s.draws c).length = 0) : s.answerTo c = some (.ok []) := by
  cases hb : s.cfg.backend with
  | oracle =>
    have received : receivedBytes (Config.anyRxByte s.draws) c.rxCount rx = [] :=
      List.length_eq_zero_iff.mp ((receivedBytes_length _ _ _).trans hc)
    simp only [State.answerTo, hbus, hb, received]
  | chip => rw [answerTo_chip c hb hbus, List.length_eq_zero_iff.mp hr]

/-- The WRITE message's descriptors, with the header's bytes as arithmetic on the address (R80, R128). -/
theorem writeCall_eq_ofNat (a : Addr) (d : List Byte) :
    writeCall a d =
      .transceive [.tx [0x02, BitVec.ofNat 8 (a.toNat / 256), BitVec.ofNat 8 a.toNat], .tx d] := by
  rw [writeCall, frameAddress_eq_ofNat, Config.opcWrite]

/-- The WRITE message of `S_WR_XFER`, answered: logged, then acted on (R128, R153). -/
theorem exec_write_wrXfer {s : State} {a : Answer} (hs : s.st = .wrXfer)
    (ha : s.answerTo (writeCall s.addr s.wbuf) = some a) :
    exec (.write s.addr) s = .next (afterWrite (s.logCall (writeCall s.addr s.wbuf) a) a) := by
  rw [exec, execWrite, if_pos ⟨hs, rfl⟩, busStep_answered afterWrite ha]

/-- Settles O22: the logged message enters the poll when answered `Ok`, and an error is raised as it is. -/
theorem writeEntersPollOrFails : Obligations.WriteEntersPollOrFails := by
  intro s hs
  rw [← writeCall_eq_ofNat]
  constructor
  · intro rx hbus
    have answered := answerTo_ok_of_receives_nothing hbus (writeCall_rxCount s.addr s.wbuf)
      (Chip.reply_length_write s.draws s.chip s.addr s.wbuf)
    exact ⟨_, exec_write_wrXfer hs answered, rfl, chipAfter_oracle _ _⟩
  · intro e hbus
    exact ⟨_, exec_write_wrXfer hs (answerTo_err _ hbus), rfl, chipAfter_oracle _ _⟩

end Sys2Proof

/-! Attach and detach (45_attach_detach.md): the two requests of the handle's lifecycle (R140, R142). -/

namespace Sys2Proof

open Sys2Proof.Machine Sys2Proof.Safety

/-! ### Acceptance -/

/-- A request that the state does not accept has no step: it leaves the state as it is (R150). -/
theorem acceptRequest_notAccepted {s : State} {r : ReqOp} (f : State → State) (ha : ¬ accepts s.st r = true) :
    acceptRequest s r f = .next s :=
  if_neg ha

/-- R150: an attach is accepted in `S_DETACHED` alone. -/
theorem accepts_attach_iff (p : Phase) : accepts p .attach = true ↔ p = .detached := by
  cases p <;> decide

/-- R150: a detach is accepted in `S_IDLE` alone. -/
theorem accepts_detach_iff (p : Phase) : accepts p .detach = true ↔ p = .idle := by
  cases p <;> decide

/-! ### Attach -/

/-- Settles O13: acceptance latches `op` and goes to the probe; elsewhere the request is not accepted. -/
theorem attachIsAccepted : Obligations.AttachIsAccepted := by
  intro x s
  rw [exec, execReqAttach]
  constructor
  · intro detached
    rw [acceptRequest_accepted _ ((accepts_attach_iff s.st).mpr detached)]
  · intro elsewhere
    rw [acceptRequest_notAccepted _ (mt (accepts_attach_iff s.st).mp elsewhere)]

/-! ### Detach -/

/-- R142: a detach in `S_IDLE` completes `OK` after its event, without a bus call. -/
theorem exec_reqDetach_idle {s : State} (x : BitVec 48) (hs : s.st = .idle) :
    exec (.reqDetach x) s = .next ((({ s with op := .detach } : State).emit .detach 0x00).complete) := by
  rw [exec, execReqDetach, acceptRequest_accepted _ ((accepts_detach_iff s.st).mpr hs)]

/-- R142: outside `S_IDLE` a detach is not accepted, so it cannot interrupt a transaction. -/
theorem exec_reqDetach_elsewhere {s : State} (x : BitVec 48) (hs : s.st ≠ .idle) :
    exec (.reqDetach x) s = .next s := by
  rw [exec, execReqDetach, acceptRequest_notAccepted _ (mt (accepts_detach_iff s.st).mp hs)]

/-- R152: the step that takes the response presented in `S_RESPOND` delivers it. -/
theorem step_respond_taken {s : State} (hs : s.st = .respond) (hr : s.inp.rst = false)
    (hready : s.inp.rspReady = true) : step s = .next s.deliverResponse.sample := by
  have delivers : idleStep s = s.deliverResponse := by simp [idleStep, hs, hr, hready]
  rw [step_waiting (.inr hs), delivers]

/-- Settles O16: the detach's own step, no step elsewhere, and `afterResponse` of a detach at the taken response. -/
theorem detachCompletes : Obligations.DetachCompletes := by
  intro x s
  refine ⟨fun idle => ⟨_, exec_reqDetach_idle x idle, rfl⟩, exec_reqDetach_elsewhere x, ?_⟩
  intro responds detaching noReset taken
  have detached : s.deliverResponse.sample.st = .detached := by
    rw [State.sample_st, State.deliverResponse_st, detaching, afterResponse]
  exact ⟨_, step_respond_taken responds noReset taken, detached⟩

end Sys2Proof

/-! The state machine (46_sequencer_fsm.md): which presented request is accepted, and what the request port means to a step
(R150). -/

namespace Sys2Proof

open Sys2Proof.Machine

/-! ### The table of accepted requests -/

/-- R150's table: `S_DETACHED` accepts the attach alone, `S_IDLE` everything else, any other state nothing. -/
theorem accepts_iff (p : Phase) (r : ReqOp) :
    accepts p r = true ↔ (p = .detached ∧ r = .attach) ∨ (p = .idle ∧ r ≠ .attach) := by
  cases p <;> cases r <;> decide

theorem ofCode_eq_attach_iff (c : BitVec 2) : ReqOp.ofCode c = .attach ↔ c = 0b00 := by
  revert c
  decide

/-- Without a reset, `req_ready` is the table's entry for the op presented. -/
theorem reqReady_presented {s : State} {w : ReqWord} (hr : s.inp.rst = false) (hq : s.inp.req = some w) :
    s.reqReady = accepts s.st (ReqOp.ofCode (w.extractLsb' 48 2)) := by
  simp [State.reqReady, hr, hq]

/-! ### A request that is not accepted -/

/-- Every request word runs as the acceptance of the op it names (R151). -/
theorem exec_decodeRequest (w : ReqWord) (s : State) :
    ∃ f, exec (decodeRequest w) s = acceptRequest s (ReqOp.ofCode (w.extractLsb' 48 2)) f := by
  rw [decodeRequest]
  cases ReqOp.ofCode (w.extractLsb' 48 2) with
  | attach => exact ⟨fun t => { t with st := .probe }, rfl⟩
  | read => exact ⟨beginRead _ _, rfl⟩
  | write => exact ⟨beginWrite _ _, rfl⟩
  | detach => exact ⟨fun t => (t.emit .detach 0x00).complete, rfl⟩

/-- A resting state that holds `req_ready` low against a request only loads the next ports. -/
theorem step_notReady {s : State} {w : ReqWord} (hr : s.inp.rst = false) (hq : s.inp.req = some w)
    (hs : s.st = .detached ∨ s.st = .idle) (low : s.reqReady = false) : step s = .next s.sample := by
  obtain ⟨f, hexec⟩ := exec_decodeRequest w s
  have notAccepted : ¬ accepts s.st (ReqOp.ofCode (w.extractLsb' 48 2)) = true := by
    simp [← reqReady_presented hr hq, low]
  rw [acceptRequest_notAccepted f notAccepted] at hexec
  simp only [step_resting hr hs, hq, hexec, Result.thenDo]

/-! ### The request port makes no difference outside the resting states -/

/-- `s` with another request and other write data on its ports. -/
def withRequest (s : State) (w : Option ReqWord) (d : WData) : State :=
  { s with inp := { s.inp with req := w, wdata := d } }

section
variable (s : State) (w : Option ReqWord) (d : WData)

@[simp] theorem withRequest_cfg : (withRequest s w d).cfg = s.cfg := rfl
@[simp] theorem withRequest_attempt : (withRequest s w d).attempt = s.attempt := rfl

/-- Loading the next ports forgets the present ones. -/
theorem sample_withRequest : (withRequest s w d).sample = s.sample := by
  cases hs : s.script with
  | nil => rw [sample_nil hs, sample_nil (s := withRequest s w d) hs]; rfl
  | cons x rest => rw [sample_cons hs, sample_cons (s := withRequest s w d) hs]; rfl

theorem raise_withRequest (f : Failure) : (withRequest s w d).raise f = withRequest (s.raise f) w d := by
  cases f <;> rfl

theorem loseWrite_withRequest : (withRequest s w d).loseWrite = withRequest s.loseWrite w d := by
  cases hb : s.cfg.backend with
  | oracle => rw [loseWrite_oracle hb, loseWrite_oracle (s := withRequest s w d) hb]
  | chip => simp only [State.loseWrite, withRequest, hb]

theorem countTick_withRequest : (withRequest s w d).countTick = withRequest s.countTick w d := by
  by_cases expired : s.ivlCnt = 0 <;> simp [State.countTick, withRequest, expired]

/-! The rule for an answer keeps the ports as they are. -/

theorem afterWren_withRequest (a : Answer) : afterWren (withRequest s w d) a = withRequest (afterWren s a) w d := by
  cases a <;> rfl

theorem afterProbe_withRequest (a : Answer) : afterProbe (withRequest s w d) a = withRequest (afterProbe s a) w d := by
  cases a <;> rfl

theorem afterRead_withRequest (a : Answer) : afterRead (withRequest s w d) a = withRequest (afterRead s a) w d := by
  cases a <;> rfl

theorem afterWrite_withRequest (a : Answer) : afterWrite (withRequest s w d) a = withRequest (afterWrite s a) w d := by
  cases a <;> rfl

theorem afterPoll_withRequest (a : Answer) : afterPoll (withRequest s w d) a = withRequest (afterPoll s a) w d := by
  cases a with
  | err e => rw [afterPoll, loseWrite_withRequest, raise_withRequest, afterPoll]
  | ok rx =>
    by_cases isBusy : busy (statusOf rx) = true
    · by_cases left : attemptsLeft s.cfg.maxAttempts s.attempt = true
      · simp only [afterPoll, withRequest_cfg, withRequest_attempt, isBusy, left, if_true]; rfl
      · simp only [afterPoll, withRequest_cfg, withRequest_attempt, isBusy, left, if_true]
        exact congrArg (fun t => (t.emit .timeout 0x00).raise .timeout)
          (loseWrite_withRequest { s with status := statusOf rx } w d)
    · simp only [afterPoll, isBusy]; rfl

/-- A bus-call step reads the transport's answer and not the request port. -/
theorem busStep_withRequest {k : State → Answer → State} (c : Call)
    (hk : ∀ t a, k (withRequest t w d) a = withRequest (k t a) w d) :
    Result.thenDo (busStep (withRequest s w d) c k) State.sample = Result.thenDo (busStep s c k) State.sample := by
  have sameAnswer : (withRequest s w d).answerTo c = s.answerTo c := rfl
  cases ha : s.answerTo c with
  | none =>
    rw [busStep_waits k ha, busStep_waits k (sameAnswer.trans ha), Result.thenDo, sample_withRequest, Result.thenDo]
  | some a =>
    have sameLog : (withRequest s w d).logCall c a = withRequest (s.logCall c a) w d := rfl
    rw [busStep_answered k ha, busStep_answered k (sameAnswer.trans ha), sameLog, hk, Result.thenDo,
      sample_withRequest, Result.thenDo]

end

/-- R101: in `S_POLL_WAIT` a step counts a tick or waits. -/
theorem idleStep_pollWait {s : State} (hr : s.inp.rst = false) (hs : s.st = .pollWait) :
    idleStep s = if s.inp.tick then s.countTick else s := by
  simp [idleStep, hr, hs]

/-- R152: in `S_RESPOND` a step delivers the response or waits for the caller. -/
theorem idleStep_respond {s : State} (hr : s.inp.rst = false) (hs : s.st = .respond) :
    idleStep s = if s.inp.rspReady then s.deliverResponse else s := by
  simp [idleStep, hr, hs]

/-- In the two waiting states a step reads the tick or the caller's taking, and not the request port. -/
theorem idleStep_withRequest {s : State} (w : Option ReqWord) (d : WData) (hr : s.inp.rst = false)
    (hs : s.st = .pollWait ∨ s.st = .respond) : idleStep (withRequest s w d) = withRequest (idleStep s) w d := by
  rcases hs with hs | hs
  · rw [idleStep_pollWait hr hs, apply_ite (withRequest · w d), ← countTick_withRequest]
    exact idleStep_pollWait (s := withRequest s w d) hr hs
  · rw [idleStep_respond hr hs, apply_ite (withRequest · w d)]
    exact idleStep_respond (s := withRequest s w d) hr hs

/-- R150: a state that accepts nothing steps the same whatever is presented, in reset too. -/
theorem step_withRequest {s : State} (w : Option ReqWord) (d : WData) (notDetached : s.st ≠ .detached)
    (notIdle : s.st ≠ .idle) : step (withRequest s w d) = step s := by
  have waiting (hr : s.inp.rst = false) (hs : s.st = .pollWait ∨ s.st = .respond) :
      step (withRequest s w d) = step s := by
    rw [step_waiting hs, step_waiting (s := withRequest s w d) hs, idleStep_withRequest w d hr hs, sample_withRequest]
  cases hr : s.inp.rst with
  | true =>
    have sameReset : (withRequest s w d).resetEvent = withRequest s.resetEvent w d := rfl
    rw [step_reset hr, step_reset (s := withRequest s w d) hr, sameReset, sample_withRequest]
  | false =>
    cases hs : s.st with
    | detached => contradiction
    | idle => contradiction
    | probe =>
      rw [step_probe hr hs, step_probe (s := withRequest s w d) hr hs]
      exact busStep_withRequest s w d _ (afterProbe_withRequest · w d)
    | rdXfer =>
      rw [step_rdXfer hr hs, step_rdXfer (s := withRequest s w d) hr hs]
      exact busStep_withRequest s w d _ (afterRead_withRequest · w d)
    | wrWren =>
      rw [step_wrWren hr hs, step_wrWren (s := withRequest s w d) hr hs]
      exact busStep_withRequest s w d _ (afterWren_withRequest · w d)
    | wrXfer =>
      rw [step_wrXfer hr hs, step_wrXfer (s := withRequest s w d) hr hs]
      exact busStep_withRequest s w d _ (afterWrite_withRequest · w d)
    | pollRdsr =>
      rw [step_pollRdsr hr hs, step_pollRdsr (s := withRequest s w d) hr hs]
      exact busStep_withRequest s w d _ (afterPoll_withRequest · w d)
    | pollWait => exact waiting hr (.inl hs)
    | respond => exact waiting hr (.inr hs)

/-- Settles O17: the port is the table's entry, and the table's two rows of accepting states are the only ones in which a
step reads the request port. -/
theorem unacceptedRequestsWait : Obligations.UnacceptedRequestsWait := by
  refine ⟨fun s w hr hq => ?_, fun s w hr hq hs low => step_notReady hr hq hs low,
    fun s w d notDetached notIdle => step_withRequest w d notDetached notIdle⟩
  rw [reqReady_presented hr hq, accepts_iff, Ne, ofCode_eq_attach_iff]

end Sys2Proof

/-! The encodings (30_encoding.md, 40_command_framer.md): the decoder and the encoder undo each other, on command frames
(R60 to R67), request words (R70 to R73) and the rows of the opcode table (log 17). -/

namespace Sys2Proof

open Sys2Proof.Machine

/-! ### Headers -/

/-- A byte of a number is decided by the number modulo 256. -/
theorem ofNat_byte_eq_iff (m n : Nat) : BitVec.ofNat 8 m = BitVec.ofNat 8 n ↔ m % 256 = n % 256 := by
  rw [← BitVec.toNat_inj, BitVec.toNat_ofNat, BitVec.toNat_ofNat]

/-- Settles O2: the two address bytes are the two base-256 digits of the address modulo 65536. -/
theorem headersAliasByLowBits : Obligations.HeadersAliasByLowBits := by
  intro w v opc a b _ _
  rw [frameAddress_eq_ofNat, frameAddress_eq_ofNat]
  simp only [List.cons.injEq, true_and, and_true, ofNat_byte_eq_iff]
  omega

/-! ### Request words -/

/-- The op codes of R70 are four different numbers. -/
@[simp] theorem ofCode_code (r : ReqOp) : ReqOp.ofCode r.code = r := by
  cases r <;> decide

/-- Every 2-bit number is the code of the request it names (R73). -/
@[simp] theorem code_ofCode (c : BitVec 2) : (ReqOp.ofCode c).code = c := by
  revert c
  decide

section
variable (op : ReqOp) (addr : Addr) (len : Len) (ignored : BitVec 48)

@[simp] theorem requestWord_opBits : (requestWord op addr len).extractLsb' 48 2 = op.code := by
  have upper : (requestWord op addr len).extractLsb' 48 2 = (op.code ++ addr).extractLsb' 16 2 :=
    BitVec.extractLsb'_append_eq_of_le (by decide)
  rw [upper, BitVec.extractLsb'_append_eq_left]

@[simp] theorem requestWord_addrBits : (requestWord op addr len).extractLsb' 32 16 = addr := by
  have upper : (requestWord op addr len).extractLsb' 32 16 = (op.code ++ addr).extractLsb' 0 16 :=
    BitVec.extractLsb'_append_eq_of_le (by decide)
  rw [upper, BitVec.extractLsb'_append_eq_right]

@[simp] theorem requestWord_lenBits : (requestWord op addr len).extractLsb' 0 32 = len :=
  BitVec.extractLsb'_append_eq_right

@[simp] theorem lifecycleWord_opBits : (lifecycleWord op ignored).extractLsb' 48 2 = op.code :=
  BitVec.extractLsb'_append_eq_left

@[simp] theorem lifecycleWord_ignoredBits : (lifecycleWord op ignored).extractLsb' 0 48 = ignored :=
  BitVec.extractLsb'_append_eq_right

end

/-- R71: op and the 48 bits below it are the whole word. -/
theorem lifecycleWord_fields (w : ReqWord) :
    lifecycleWord (ReqOp.ofCode (w.extractLsb' 48 2)) (w.extractLsb' 0 48) = w := by
  have joined : w.extractLsb' 48 2 ++ w.extractLsb' 0 48 = w.extractLsb' 0 50 :=
    BitVec.extractLsb'_append_extractLsb'_eq_extractLsb' rfl
  rw [lifecycleWord, code_ofCode, joined, BitVec.extractLsb'_eq_self]

/-- R70: the three fields are the whole word. -/
theorem requestWord_fields (w : ReqWord) :
    requestWord (ReqOp.ofCode (w.extractLsb' 48 2)) (w.extractLsb' 32 16) (w.extractLsb' 0 32) = w := by
  have upper : w.extractLsb' 48 2 ++ w.extractLsb' 32 16 = w.extractLsb' 32 18 :=
    BitVec.extractLsb'_append_extractLsb'_eq_extractLsb' rfl
  have joined : w.extractLsb' 32 18 ++ w.extractLsb' 0 32 = w.extractLsb' 0 50 :=
    BitVec.extractLsb'_append_extractLsb'_eq_extractLsb' rfl
  rw [requestWord, code_ofCode, upper, joined, BitVec.extractLsb'_eq_self]

/-- A request word of three fields is read as the read or write of these fields. -/
theorem decodeRequest_read (addr : Addr) (len : Len) : decodeRequest (requestWord .read addr len) = .reqRead addr len := by
  simp [decodeRequest]

theorem decodeRequest_write (addr : Addr) (len : Len) :
    decodeRequest (requestWord .write addr len) = .reqWrite addr len := by
  simp [decodeRequest]

theorem decodeRequest_attach (x : BitVec 48) : decodeRequest (lifecycleWord .attach x) = .reqAttach x := by
  simp [decodeRequest]

theorem decodeRequest_detach (x : BitVec 48) : decodeRequest (lifecycleWord .detach x) = .reqDetach x := by
  simp [decodeRequest]

/-- Settles O4: the instruction keeps every bit of the word, whichever of the four ops it names. -/
theorem requestWordsReadWhole : Obligations.RequestWordsReadWhole := by
  intro w
  have whole := requestWord_fields w
  have lifecycle := lifecycleWord_fields w
  rw [decodeRequest]
  cases hop : ReqOp.ofCode (w.extractLsb' 48 2) with
  | attach => rw [hop] at lifecycle; exact congrArg Raw.word lifecycle
  | read => rw [hop] at whole; exact congrArg Raw.word whole
  | write => rw [hop] at whole; exact congrArg Raw.word whole
  | detach => rw [hop] at lifecycle; exact congrArg Raw.word lifecycle

/-- Settles O3: a header is read back by the frame decoder, a request word by its fields. -/
theorem decodeOfEncode : Obligations.DecodeOfEncode := by
  intro i
  cases i with
  | wren => rfl
  | rdsr => rfl
  | read a => exact decode_readHeader a
  | write a => exact decode_writeHeader a
  | reqAttach x => exact congrArg Except.ok (decodeRequest_attach x)
  | reqRead a n => exact congrArg Except.ok (decodeRequest_read a n)
  | reqWrite a n => exact congrArg Except.ok (decodeRequest_write a n)
  | reqDetach x => exact congrArg Except.ok (decodeRequest_detach x)

/-! ### Frames -/

/-- The two bytes of an address made of two bytes (R62). -/
theorem headerAddress_high (hi lo : Byte) : (headerAddress hi lo).extractLsb' 8 8 = hi :=
  BitVec.extractLsb'_append_eq_left

theorem headerAddress_low (hi lo : Byte) : (headerAddress hi lo).extractLsb' 0 8 = lo :=
  BitVec.extractLsb'_append_eq_right

/-- The header of an address made of two bytes carries these bytes. -/
theorem frameAddress_headerAddress (opc hi lo : Byte) : frameAddress opc (headerAddress hi lo) = [opc, hi, lo] := by
  rw [frameAddress, headerAddress_high, headerAddress_low]

/-- R62, R66: an address is read only where two bytes stand, and it is these two. -/
theorem decodeAddress_ok {opc : Byte} {mk : Addr → Instr} {bs rest : List Byte} {i : Instr}
    (h : decodeAddress opc mk bs = .ok (i, rest)) : ∃ hi lo, bs = hi :: lo :: rest ∧ i = mk (headerAddress hi lo) := by
  match bs with
  | [] => cases h
  | [_] => cases h
  | hi :: lo :: _ => cases h; exact ⟨hi, lo, rfl, rfl⟩

/-- An address read behind a CMD3 opcode leaves the header's three bytes in front of the rest. -/
theorem header_of_decodeAddress {opc : Byte} {mk : Addr → Instr} {bs rest : List Byte} {i : Instr}
    (hmk : ∀ a, encode (mk a) = .frame (frameAddress opc a)) (h : decodeAddress opc mk bs = .ok (i, rest)) :
    ∃ header, encode i = .frame header ∧ opc :: bs = header ++ rest := by
  obtain ⟨hi, lo, rfl, rfl⟩ := decodeAddress_ok h
  exact ⟨[opc, hi, lo], by rw [hmk, frameAddress_headerAddress], rfl⟩

/-- R65, R66: an accepted frame is the header of its instruction and the bytes left over. -/
theorem decodeFrame_ok {bs rest : List Byte} {i : Instr} (h : decodeFrame bs = .ok (i, rest)) :
    ∃ header, encode i = .frame header ∧ bs = header ++ rest := by
  cases bs with
  | nil => cases h
  | cons opc bs =>
    rw [decodeFrame] at h
    split_ifs at h with isWren isRdsr isRead isWrite
    · cases h; subst isWren; exact ⟨[Config.opcWren], rfl, rfl⟩
    · cases h; subst isRdsr; exact ⟨[Config.opcRdsr], rfl, rfl⟩
    · subst isRead; exact header_of_decodeAddress (fun _ => rfl) h
    · subst isWrite; exact header_of_decodeAddress (fun _ => rfl) h

/-- R65: any other first byte is refused by name. -/
theorem decodeFrame_unknown {opc : Byte} (rest : List Byte) (notWrite : opc ≠ Config.opcWrite)
    (notRead : opc ≠ Config.opcRead) (notRdsr : opc ≠ Config.opcRdsr) (notWren : opc ≠ Config.opcWren) :
    decodeFrame (opc :: rest) = .error (.unknownOpcode opc) := by
  rw [decodeFrame, if_neg notWren, if_neg notRdsr, if_neg notRead, if_neg notWrite]

/-- Settles O5: the accepted frames by inversion, the opcodes by the decoder's own four tests. -/
theorem framesReadWhole : Obligations.FramesReadWhole := by
  refine ⟨fun _ _ _ h => decodeFrame_ok h, fun _ rest => decodeFrame_unknown rest, ?_⟩
  rintro _ hi lo (rfl | rfl | rfl | rfl)
  · exact ⟨.write (headerAddress hi lo), [], rfl⟩
  · exact ⟨.read (headerAddress hi lo), [], rfl⟩
  · exact ⟨.rdsr, [hi, lo], rfl⟩
  · exact ⟨.wren, [hi, lo], rfl⟩

/-! ### The opcode table -/

/-- A 24-bit row is laid out as the three bytes it numbers, the first most significant (R62). -/
theorem rawOfTable_threeBytes (x y z : Byte) :
    rawOfTable 24 (x.toNat * 65536 + y.toNat * 256 + z.toNat) = some (.frame [x, y, z]) := by
  have hx : BitVec.ofNat 8 ((x.toNat * 65536 + y.toNat * 256 + z.toNat) / 65536) = x := by bv_omega
  have hy : BitVec.ofNat 8 ((x.toNat * 65536 + y.toNat * 256 + z.toNat) / 256) = y := by bv_omega
  have hz : BitVec.ofNat 8 (x.toNat * 65536 + y.toNat * 256 + z.toNat) = z := by bv_omega
  have bound : x.toNat * 65536 + y.toNat * 256 + z.toNat < 2 ^ 24 := by omega
  rw [rawOfTable, if_neg (by decide), if_pos (by decide), if_pos bound, hx, hy, hz]

/-- A 50-bit row is the request word. -/
theorem rawOfTable_word (w : ReqWord) : rawOfTable 50 w.toNat = some (.word w) := by
  rw [rawOfTable, if_neg (by decide), if_neg (by decide), if_pos w.isLt, BitVec.ofNat_toNat, BitVec.setWidth_eq]

/-- What decodes whole is a header with nothing left over (R66). -/
theorem decodeFrame_of_decode {bs : List Byte} {i : Instr} (h : decode (.frame bs) = .ok i) :
    decodeFrame bs = .ok (i, []) := by
  rw [decode] at h
  split at h
  · cases h
  · cases h; assumption
  · cases h

/-- A CMD3 row is read as its header is. -/
theorem decodeTableWord_header {opc : Byte} {a : Addr} {i : Instr} (hrow : encode i = .frame (frameAddress opc a))
    (h : decode (.frame (frameAddress opc a)) = .ok i) : decodeTableWord 24 (tableNumber i) = some i := by
  have number : tableNumber i =
      opc.toNat * 65536 + (a.extractLsb' 8 8).toNat * 256 + (a.extractLsb' 0 8).toNat := by
    rw [tableNumber, hrow]
    simp only [frameAddress, List.foldl_cons, List.foldl_nil]
    omega
  have layout : rawOfTable 24 (tableNumber i) = some (.frame (frameAddress opc a)) := by
    rw [number, rawOfTable_threeBytes, frameAddress]
  simp only [decodeTableWord, layout, decodeFrame_of_decode h]

/-- A REQ row is read as its word is. -/
theorem decodeTableWord_word (w : ReqWord) : decodeTableWord 50 w.toNat = some (decodeRequest w) := by
  rw [decodeTableWord, rawOfTable_word]

/-- Settles O6: a CMD1 row by its one number, a CMD3 row through its three bytes, a REQ row through its word. -/
theorem tableRowsDecode : Obligations.TableRowsDecode := by
  intro i
  cases i with
  | wren => decide
  | rdsr => decide
  | read a => exact decodeTableWord_header rfl (decode_readHeader a)
  | write a => exact decodeTableWord_header rfl (decode_writeHeader a)
  | reqAttach x => exact (decodeTableWord_word _).trans (congrArg some (decodeRequest_attach x))
  | reqRead a n => exact (decodeTableWord_word _).trans (congrArg some (decodeRequest_read a n))
  | reqWrite a n => exact (decodeTableWord_word _).trans (congrArg some (decodeRequest_write a n))
  | reqDetach x => exact (decodeTableWord_word _).trans (congrArg some (decodeRequest_detach x))

/-- Settles O7: eight closed words, each evaluated. -/
theorem specWordsDecode : Obligations.SpecWordsDecode :=
  ⟨rfl, rfl, rfl, rfl, rfl, rfl, rfl, rfl⟩

end Sys2Proof

/-! The bus commands (46_sequencer_fsm.md section 2, 60_exceptions.md section 8.1): what the transport's answers are, that a
command waits for its answer, and WREN and RDSR where they are outstanding. -/

namespace Sys2Proof

open Sys2Proof.Machine Sys2Proof.Safety

/-! ### The transport's answers -/

/-- The four legal calls are the sequencer's four messages (R63, R67). -/
theorem legalCall_iff (c : Call) :
    LegalCall c ↔ c = wrenCall ∨ c = rdsrCall ∨ (∃ a n, c = readCall a n) ∨ ∃ a d, c = writeCall a d :=
  Iff.rfl

/-- The chip returns as many bytes as a legal call asks for. -/
theorem reply_length {c : Call} (k : Nat) (chip : Chip) (h : LegalCall c) : (chip.reply k c).length = c.rxCount := by
  rcases (legalCall_iff c).mp h with rfl | rfl | ⟨a, n, rfl⟩ | ⟨a, d, rfl⟩
  · exact Chip.reply_length_wren k chip
  · exact Chip.reply_length_rdsr k chip
  · exact (Chip.reply_length_read k chip a n).trans (readCall_rxCount a n).symm
  · exact Chip.reply_length_write k chip a d

/-- R187: an `Ok` answer to a legal call has the number of bytes the call asks for. -/
theorem answerTo_length {s : State} {c : Call} {rx : List Byte} (hc : LegalCall c)
    (ha : s.answerTo c = some (.ok rx)) : rx.length = c.rxCount := by
  rw [State.answerTo] at ha
  split at ha
  · cases ha
  · cases ha
  · split at ha
    · cases ha; exact receivedBytes_length _ _ _
    · cases ha; exact reply_length _ _ hc

/-- Settles O28: the port's error and the oracle's bytes are the answer, and a legal call's answer has its length. -/
theorem answersAreTheTransports : Obligations.AnswersAreTheTransports :=
  ⟨fun _ c _ h => answerTo_err c h, fun _ _ _ ho h hl => answerTo_oracle ho h hl, fun _ _ _ hc ha => answerTo_length hc ha⟩

/-! ### Waiting, and commands that are not outstanding -/

/-- Settles O29: outstanding, a command without an answer waits; elsewhere it does nothing anyway. -/
theorem unansweredCommandsWait : Obligations.UnansweredCommandsWait := by
  intro s silent
  have waits (c : Call) (k : State → Answer → State) : busStep s c k = .next s := busStep_waits k (answerTo_none c silent)
  refine ⟨?_, ?_, fun a => ⟨?_, ?_⟩⟩
  · rw [exec, execWren, waits, ite_self]
  · rw [exec, execRdsr, waits, waits, ite_self, ite_self]
  · rw [exec, execRead, waits, ite_self]
  · rw [exec, execWrite, waits, ite_self]

/-- Settles O30: the tests of state and address at the head of each command fail. -/
theorem commandsOnlyWhereOutstanding : Obligations.CommandsOnlyWhereOutstanding := by
  refine ⟨fun s hs => if_neg hs, fun s notProbe notPoll => ?_, fun s a h => if_neg ?_, fun s a h => if_neg ?_⟩
  · rw [exec, execRdsr, if_neg notProbe, if_neg notPoll]
  · exact not_and_or.mpr h
  · exact not_and_or.mpr h

/-! ### WREN -/

/-- WREN in `S_WR_WREN`, answered: logged, then acted on (R110, R153). -/
theorem exec_wren_wrWren {s : State} {a : Answer} (hs : s.st = .wrWren) (ha : s.answerTo wrenCall = some a) :
    exec .wren s = .next (afterWren (s.logCall wrenCall a) a) := by
  rw [exec, execWren, if_pos hs, busStep_answered afterWren ha]

/-- A WREN receives nothing, so that its `Ok` carries no byte. -/
theorem answerTo_wren_ok {s : State} {rx : List Byte} (hbus : s.inp.bus = some (.ok rx)) :
    s.answerTo wrenCall = some (.ok []) :=
  answerTo_ok_of_receives_nothing hbus wrenCall_rxCount (Chip.reply_length_wren s.draws s.chip)

/-- Settles O20: the logged WREN leads to the WRITE message when answered `Ok`, and an error is raised as it is. -/
theorem wrenGoesOnOrFails : Obligations.WrenGoesOnOrFails := by
  intro s hs
  constructor
  · intro rx hbus
    exact ⟨_, exec_wren_wrWren hs (answerTo_wren_ok hbus), rfl, chipAfter_oracle _ _⟩
  · intro e hbus
    exact ⟨_, exec_wren_wrWren hs (answerTo_err _ hbus), rfl, chipAfter_oracle _ _⟩

/-! ### RDSR at attach -/

/-- The status read of the probe, answered: logged, then acted on (R141, R153). -/
theorem exec_rdsr_probe {s : State} {a : Answer} (hs : s.st = .probe) (ha : s.answerTo rdsrCall = some a) :
    exec .rdsr s = .next (afterProbe (s.logCall rdsrCall a) a) := by
  rw [exec, execRdsr, if_pos hs, busStep_answered afterProbe ha]

/-- Settles O18: the probe completes with the byte, without a look at its bits. -/
theorem probeSucceeds : Obligations.ProbeSucceeds :=
  fun _ _ hs ha => ⟨_, exec_rdsr_probe hs ha, rfl, chipAfter_oracle _ _⟩

/-- Settles O19: the error is raised from the state that the logged call left. -/
theorem probeFails : Obligations.ProbeFails :=
  fun _ _ hs ha => ⟨_, exec_rdsr_probe hs ha, rfl, chipAfter_oracle _ _⟩

/-! ### Bits 7:1 of a status byte -/

/-- R96 as the model has it: the byte is latched, the write lost, and the timeout raised after its event. -/
theorem afterPoll_busy_last (s : State) {b : Byte} (hb : busy b = true) (hn : s.cfg.maxAttempts ≤ s.attempt.toNat + 1) :
    afterPoll s (.ok [b]) = (({ s with status := b } : State).loseWrite.emit .timeout 0x00).raise .timeout := by
  simp [afterPoll, statusOf, hb, attemptsLeft_iff, Nat.not_lt.mpr hn]

/-- R96 with the oracle, where no chip loses a write. -/
theorem afterPoll_busy_last_oracle {s : State} {b : Byte} (ho : s.cfg.backend = .oracle) (hb : busy b = true)
    (hn : s.cfg.maxAttempts ≤ s.attempt.toNat + 1) :
    afterPoll s (.ok [b]) = (({ s with status := b } : State).emit .timeout 0x00).raise .timeout := by
  have kept : ({ s with status := b } : State).loseWrite = { s with status := b } := loseWrite_oracle ho
  rw [afterPoll_busy_last s hb hn, kept]

/-- `s` with a status byte answered on its port. -/
def withStatusByte (s : State) (b : Byte) : State := { s with inp := { s.inp with bus := some (.ok [b]) } }

/-- The state that the oracle's answer to a status read leaves for the rule of the answer. -/
def loggedStatusByte (s : State) (b : Byte) : State :=
  { withStatusByte s b with busLog := s.busLog ++ [⟨rdsrCall, .ok [b]⟩], draws := s.draws + 1 }

section
variable {s : State} (ho : s.cfg.backend = .oracle)
include ho

theorem answerTo_withStatusByte (b : Byte) : (withStatusByte s b).answerTo rdsrCall = some (.ok [b]) :=
  answerTo_oracle ho rfl rfl

theorem logCall_withStatusByte (b : Byte) :
    (withStatusByte s b).logCall rdsrCall (.ok [b]) = loggedStatusByte s b := by
  rw [State.logCall, chipAfter_oracle (s := withStatusByte s b) _ _ ho]
  rfl

theorem exec_rdsr_withStatusByte_probe (hs : s.st = .probe) (b : Byte) :
    exec .rdsr (withStatusByte s b) = .next (afterProbe (loggedStatusByte s b) (.ok [b])) := by
  rw [exec_rdsr_probe (s := withStatusByte s b) hs (answerTo_withStatusByte ho b), logCall_withStatusByte ho]

theorem exec_rdsr_withStatusByte_poll (hs : s.st = .pollRdsr) (b : Byte) :
    exec .rdsr (withStatusByte s b) = .next (afterPoll (loggedStatusByte s b) (.ok [b])) := by
  rw [exec_rdsr_poll (s := withStatusByte s b) hs (answerTo_withStatusByte ho b), logCall_withStatusByte ho]

/-- The poll acts alike on two bytes with the same busy bit, but for the places that hold the byte. -/
theorem afterPoll_loggedStatusByte {a b : Byte} (sameBusy : busy a = busy b) :
    ∃ t, afterPoll (loggedStatusByte s a) (.ok [a]) = t ∧ t.status = a
      ∧ t.busLog = s.busLog ++ [⟨rdsrCall, .ok [a]⟩]
      ∧ afterPoll (loggedStatusByte s b) (.ok [b]) =
        { t with
          status := b
          busLog := s.busLog ++ [⟨rdsrCall, .ok [b]⟩]
          inp := { s.inp with bus := some (.ok [b]) } } := by
  cases hb : busy b with
  | false =>
    rw [afterPoll_ready _ hb, afterPoll_ready _ (sameBusy.trans hb)]
    exact ⟨_, rfl, rfl, rfl, rfl⟩
  | true =>
    rcases Nat.lt_or_ge (s.attempt.toNat + 1) s.cfg.maxAttempts with left | last
    · rw [afterPoll_busy_waits (loggedStatusByte s b) hb left,
        afterPoll_busy_waits (loggedStatusByte s a) (sameBusy.trans hb) left]
      exact ⟨_, rfl, rfl, rfl, rfl⟩
    · rw [afterPoll_busy_last_oracle (s := loggedStatusByte s b) ho hb last,
        afterPoll_busy_last_oracle (s := loggedStatusByte s a) ho (sameBusy.trans hb) last]
      exact ⟨_, rfl, rfl, rfl, rfl⟩

end

/-- Settles O27: the poll reads bit 0 alone, and the probe no bit at all. -/
theorem statusUpperBitsIgnored : Obligations.StatusUpperBitsIgnored := by
  intro s a b t u hs ho sameBit ht hu
  rcases hs with hs | hs
  · have sameBusy : busy a = busy b := by rw [busy_eq_getLsbD, busy_eq_getLsbD, sameBit]
    have notProbe : s.st ≠ .probe := by simp [hs]
    obtain ⟨v, hv, status, busLog, other⟩ := afterPoll_loggedStatusByte ho sameBusy
    cases ht.symm.trans ((exec_rdsr_withStatusByte_poll ho hs a).trans (congrArg _ hv))
    cases hu.symm.trans ((exec_rdsr_withStatusByte_poll ho hs b).trans (congrArg _ other))
    exact ⟨status, busLog, by rw [if_neg notProbe], fun isProbe => absurd isProbe notProbe⟩
  · cases ht.symm.trans (exec_rdsr_withStatusByte_probe ho hs a)
    cases hu.symm.trans (exec_rdsr_withStatusByte_probe ho hs b)
    exact ⟨rfl, rfl, by rw [if_pos hs]; rfl, fun _ => rfl⟩

end Sys2Proof

/-! The step (46_sequencer_fsm.md): the rows of the transition table R154 with every branch of their rules taken, that a step
without reset takes a row or waits, and what follows for the state register, the logs and the handle. -/

namespace Sys2Proof

open Sys2Proof.Machine Sys2Proof.Safety

/-! ### The rows of the transition table -/

/-- The rows of R154 other than Reset, each with its guard and the state it makes before the next ports are loaded. Where
`Event` has one constructor for each kind of event, a row is one branch of the event's rule. -/
inductive Row (s : State) : State → Prop
  | attach (hs : s.st = .detached) (w : ReqWord) (x : BitVec 48) (hq : s.inp.req = some w)
      (hw : decodeRequest w = .reqAttach x) : Row s { s with op := .attach, st := .probe }
  | readAccepted (hs : s.st = .idle) (w : ReqWord) (addr : Addr) (len : Len) (hq : s.inp.req = some w)
      (hw : decodeRequest w = .reqRead addr len) (inRange : addr.toNat + len.toNat ≤ 262144) :
      Row s { s with op := .read, addr := addr, len := len, st := .rdXfer }
  | readRejected (hs : s.st = .idle) (w : ReqWord) (addr : Addr) (len : Len) (hq : s.inp.req = some w)
      (hw : decodeRequest w = .reqRead addr len) (outOfRange : 262144 < addr.toNat + len.toNat) :
      Row s ((({ s with op := .read } : State).emit .oobRead 0x00).raise .invalidArgument)
  | writeAccepted (hs : s.st = .idle) (w : ReqWord) (addr : Addr) (len : Len) (hq : s.inp.req = some w)
      (hw : decodeRequest w = .reqWrite addr len) (inRange : addr.toNat + len.toNat ≤ 262144) (fits : len.toNat ≤ 256) :
      Row s { s with
        op := .write, addr := addr, len := len, wbuf := captureData s.inp.wdata len.toNat, st := .wrWren }
  | writeRejected (hs : s.st = .idle) (w : ReqWord) (addr : Addr) (len : Len) (hq : s.inp.req = some w)
      (hw : decodeRequest w = .reqWrite addr len) (outOfRange : 262144 < addr.toNat + len.toNat) :
      Row s ((({ s with op := .write } : State).emit .oobWrite 0x00).raise .invalidArgument)
  | writeOverPage (hs : s.st = .idle) (w : ReqWord) (addr : Addr) (len : Len) (hq : s.inp.req = some w)
      (hw : decodeRequest w = .reqWrite addr len) (inRange : addr.toNat + len.toNat ≤ 262144)
      (overPage : 256 < len.toNat) : Row s (({ s with op := .write } : State).raise .invalidArgument)
  | detach (hs : s.st = .idle) (w : ReqWord) (x : BitVec 48) (hq : s.inp.req = some w)
      (hw : decodeRequest w = .reqDetach x) :
      Row s ((({ s with op := .detach } : State).emit .detach 0x00).complete)
  | probeOk (hs : s.st = .probe) (b : Byte) (ha : s.answerTo rdsrCall = some (.ok [b])) :
      Row s (({ s.logCall rdsrCall (.ok [b]) with status := b } : State).emit .attach b).complete
  | probeErr (hs : s.st = .probe) (e : TErr) (ha : s.answerTo rdsrCall = some (.err e)) :
      Row s ((s.logCall rdsrCall (.err e)).raise (.transportError e))
  | wrenOk (hs : s.st = .wrWren) (ha : s.answerTo wrenCall = some (.ok [])) :
      Row s { s.logCall wrenCall (.ok []) with st := .wrXfer }
  | wrenErr (hs : s.st = .wrWren) (e : TErr) (ha : s.answerTo wrenCall = some (.err e)) :
      Row s ((s.logCall wrenCall (.err e)).raise (.transportError e))
  | readOk (hs : s.st = .rdXfer) (rx : List Byte) (ha : s.answerTo (readCall s.addr s.len.toNat) = some (.ok rx)) :
      Row s ({ s.logCall (readCall s.addr s.len.toNat) (.ok rx) with rbuf := rx } : State).complete
  | readErr (hs : s.st = .rdXfer) (e : TErr) (ha : s.answerTo (readCall s.addr s.len.toNat) = some (.err e)) :
      Row s (({ s.logCall (readCall s.addr s.len.toNat) (.err e) with
        rbuf := anyBytes (Config.anyReadByte (s.draws + 1)) s.len.toNat } : State).raise (.transportError e))
  | writeOk (hs : s.st = .wrXfer) (ha : s.answerTo (writeCall s.addr s.wbuf) = some (.ok [])) :
      Row s { s.logCall (writeCall s.addr s.wbuf) (.ok []) with attempt := 0, st := .pollRdsr }
  | writeErr (hs : s.st = .wrXfer) (e : TErr) (ha : s.answerTo (writeCall s.addr s.wbuf) = some (.err e)) :
      Row s ((s.logCall (writeCall s.addr s.wbuf) (.err e)).raise (.transportError e))
  | pollReady (hs : s.st = .pollRdsr) (b : Byte) (ha : s.answerTo rdsrCall = some (.ok [b])) (hb : busy b = false) :
      Row s ({ s.logCall rdsrCall (.ok [b]) with status := b } : State).complete
  | pollBusy (hs : s.st = .pollRdsr) (b : Byte) (ha : s.answerTo rdsrCall = some (.ok [b])) (hb : busy b = true)
      (left : s.attempt.toNat + 1 < s.cfg.maxAttempts) :
      Row s { s.logCall rdsrCall (.ok [b]) with
        status := b, attempt := s.attempt + 1, ivlCnt := s.cfg.intervalTicks, st := .pollWait }
  | pollTimeout (hs : s.st = .pollRdsr) (b : Byte) (ha : s.answerTo rdsrCall = some (.ok [b])) (hb : busy b = true)
      (last : s.cfg.maxAttempts ≤ s.attempt.toNat + 1) :
      Row s ((({ s.logCall rdsrCall (.ok [b]) with status := b } : State).loseWrite.emit .timeout 0x00).raise .timeout)
  | pollErr (hs : s.st = .pollRdsr) (e : TErr) (ha : s.answerTo rdsrCall = some (.err e)) :
      Row s ((s.logCall rdsrCall (.err e)).loseWrite.raise (.transportError e))
  | tickEnds (hs : s.st = .pollWait) (ht : s.inp.tick = true) (hc : s.ivlCnt = 0) : Row s { s with st := .pollRdsr }
  | tickCounts (hs : s.st = .pollWait) (ht : s.inp.tick = true) (hc : s.ivlCnt ≠ 0) :
      Row s { s with ivlCnt := s.ivlCnt - 1 }
  | respond (hs : s.st = .respond) (taken : s.inp.rspReady = true) : Row s s.deliverResponse

/-! ### A row is a step -/

/-- Settles O10: the two matches of `step`, taken. -/
theorem stepRunsDecoded : Obligations.StepRunsDecoded := by
  intro s raw i hf hd
  simp only [step, hf, hd]

/-- A request presented in a resting state is run. -/
theorem step_request {s u : State} {w : ReqWord} {i : Instr} (hr : s.inp.rst = false)
    (hs : s.st = .detached ∨ s.st = .idle) (hq : s.inp.req = some w) (hw : decodeRequest w = i)
    (hexec : exec i s = .next u) : step s = .next u.sample := by
  have hf : fetch s = some (.word w) := by rw [fetch_resting hr hs, hq, Option.map_some]
  rw [stepRunsDecoded s (.word w) i hf (congrArg Except.ok hw), hexec, Result.thenDo]

/-- An outstanding call that is answered takes the rule of its answer. -/
theorem step_answered {s : State} {c : Call} {k : State → Answer → State} {a : Answer}
    (hstep : step s = Result.thenDo (busStep s c k) State.sample) (ha : s.answerTo c = some a) :
    step s = .next (k (s.logCall c a) a).sample := by
  rw [hstep, busStep_answered k ha, Result.thenDo]

/-- A tick in `S_POLL_WAIT` counts. -/
theorem step_tick {s : State} (hr : s.inp.rst = false) (hs : s.st = .pollWait) (ht : s.inp.tick = true) :
    step s = .next s.countTick.sample := by
  rw [step_waiting (.inl hs), idleStep_pollWait hr hs, if_pos ht]

/-- Every row whose guard holds is the step, when there is no reset. -/
theorem Row.step_eq {s u : State} (h : Row s u) (hr : s.inp.rst = false) : step s = .next u.sample := by
  cases h with
  | attach hs w x hq hw => exact step_request hr (.inl hs) hq hw ((attachIsAccepted x s).1 hs)
  | readAccepted hs w addr len hq hw inRange =>
    refine step_request hr (.inr hs) hq hw ?_
    rw [exec_reqRead_idle addr len hs, beginRead_inRange inRange]
  | readRejected hs w addr len hq hw outOfRange =>
    refine step_request hr (.inr hs) hq hw ?_
    rw [exec_reqRead_idle addr len hs, beginRead_outOfRange outOfRange]
  | writeAccepted hs w addr len hq hw inRange fits =>
    refine step_request hr (.inr hs) hq hw ?_
    rw [exec_reqWrite_idle addr len hs, beginWrite_valid inRange fits]
  | writeRejected hs w addr len hq hw outOfRange =>
    refine step_request hr (.inr hs) hq hw ?_
    rw [exec_reqWrite_idle addr len hs, beginWrite_outOfRange outOfRange]
  | writeOverPage hs w addr len hq hw inRange overPage =>
    refine step_request hr (.inr hs) hq hw ?_
    rw [exec_reqWrite_idle addr len hs, beginWrite_overPage inRange overPage]
  | detach hs w x hq hw => exact step_request hr (.inr hs) hq hw (exec_reqDetach_idle x hs)
  | probeOk hs b ha => exact step_answered (step_probe hr hs) ha
  | probeErr hs e ha => exact step_answered (step_probe hr hs) ha
  | wrenOk hs ha => exact step_answered (step_wrWren hr hs) ha
  | wrenErr hs e ha => exact step_answered (step_wrWren hr hs) ha
  | readOk hs rx ha => exact step_answered (step_rdXfer hr hs) ha
  | readErr hs e ha => exact step_answered (step_rdXfer hr hs) ha
  | writeOk hs ha => exact step_answered (step_wrXfer hr hs) ha
  | writeErr hs e ha => exact step_answered (step_wrXfer hr hs) ha
  | pollReady hs b ha hb => rw [step_answered (step_pollRdsr hr hs) ha, afterPoll_ready _ hb]
  | pollBusy hs b ha hb left =>
    rw [step_answered (step_pollRdsr hr hs) ha, afterPoll_busy_waits (s.logCall rdsrCall (.ok [b])) hb left]
    rfl
  | pollTimeout hs b ha hb last =>
    rw [step_answered (step_pollRdsr hr hs) ha, afterPoll_busy_last (s.logCall rdsrCall (.ok [b])) hb last]
  | pollErr hs e ha => exact step_answered (step_pollRdsr hr hs) ha
  | tickEnds hs ht hc => rw [step_tick hr hs ht, State.countTick, if_pos hc]
  | tickCounts hs ht hc => rw [step_tick hr hs ht, State.countTick, if_neg hc]
  | respond hs taken => exact step_respond_taken hs hr taken

/-! ### A step is a row, a wait or a reset -/

/-- A step with an outstanding call waits or has its answer. -/
theorem step_of_call {s t : State} {c : Call} {k : State → Answer → State} (h : step s = .next t)
    (hstep : step s = Result.thenDo (busStep s c k) State.sample)
    (hk : ∀ a, s.answerTo c = some a → Row s (k (s.logCall c a) a)) :
    t = s.sample ∨ ∃ u, Row s u ∧ t = u.sample := by
  obtain ⟨u, hu, rfl⟩ := thenDo_next (hstep.symm.trans h)
  rcases busStep_cases hu with ⟨_, rfl⟩ | ⟨a, ha, rfl⟩
  · exact .inl rfl
  · exact .inr ⟨_, hk a ha, rfl⟩

/-- The one byte of a status read's answer. -/
theorem answerTo_rdsr_ok {s : State} {rx : List Byte} (ha : s.answerTo rdsrCall = some (.ok rx)) : ∃ b, rx = [b] :=
  List.length_eq_one_iff.mp (answerTo_length ((legalCall_iff _).mpr (.inr (.inl rfl))) ha)

/-- A WRITE receives nothing, so that its `Ok` carries no byte. -/
theorem answerTo_write_nil {s : State} {a : Addr} {d rx : List Byte}
    (ha : s.answerTo (writeCall a d) = some (.ok rx)) : rx = [] :=
  List.length_eq_zero_iff.mp (answerTo_length ((legalCall_iff _).mpr (.inr (.inr (.inr ⟨a, d, rfl⟩)))) ha)

theorem answerTo_wren_nil {s : State} {rx : List Byte} (ha : s.answerTo wrenCall = some (.ok rx)) : rx = [] :=
  List.length_eq_zero_iff.mp (answerTo_length ((legalCall_iff _).mpr (.inl rfl)) ha)

theorem row_of_probe {s : State} {a : Answer} (hs : s.st = .probe) (ha : s.answerTo rdsrCall = some a) :
    Row s (afterProbe (s.logCall rdsrCall a) a) := by
  cases a with
  | ok rx => obtain ⟨b, rfl⟩ := answerTo_rdsr_ok ha; exact .probeOk hs b ha
  | err e => exact .probeErr hs e ha

theorem row_of_wren {s : State} {a : Answer} (hs : s.st = .wrWren) (ha : s.answerTo wrenCall = some a) :
    Row s (afterWren (s.logCall wrenCall a) a) := by
  cases a with
  | ok rx => obtain rfl := answerTo_wren_nil ha; exact .wrenOk hs ha
  | err e => exact .wrenErr hs e ha

theorem row_of_read {s : State} {a : Answer} (hs : s.st = .rdXfer)
    (ha : s.answerTo (readCall s.addr s.len.toNat) = some a) :
    Row s (afterRead (s.logCall (readCall s.addr s.len.toNat) a) a) := by
  cases a with
  | ok rx => exact .readOk hs rx ha
  | err e => exact .readErr hs e ha

theorem row_of_write {s : State} {a : Answer} (hs : s.st = .wrXfer)
    (ha : s.answerTo (writeCall s.addr s.wbuf) = some a) :
    Row s (afterWrite (s.logCall (writeCall s.addr s.wbuf) a) a) := by
  cases a with
  | ok rx => obtain rfl := answerTo_write_nil ha; exact .writeOk hs ha
  | err e => exact .writeErr hs e ha

theorem row_of_poll {s : State} {a : Answer} (hs : s.st = .pollRdsr) (ha : s.answerTo rdsrCall = some a) :
    Row s (afterPoll (s.logCall rdsrCall a) a) := by
  cases a with
  | ok rx =>
    obtain ⟨b, rfl⟩ := answerTo_rdsr_ok ha
    cases hb : busy b with
    | false => rw [afterPoll_ready _ hb]; exact .pollReady hs b ha hb
    | true =>
      rcases Nat.lt_or_ge (s.attempt.toNat + 1) s.cfg.maxAttempts with left | last
      · rw [afterPoll_busy_waits (s.logCall rdsrCall (.ok [b])) hb left]
        exact .pollBusy hs b ha hb left
      · rw [afterPoll_busy_last (s.logCall rdsrCall (.ok [b])) hb last]
        exact .pollTimeout hs b ha hb last
  | err e => exact .pollErr hs e ha

/-- A request that is accepted takes the row of its op and its range (R150). -/
theorem row_of_ready {s : State} {w : ReqWord} (hr : s.inp.rst = false) (hq : s.inp.req = some w)
    (ready : s.reqReady = true) : ∃ u, Row s u := by
  rw [reqReady_presented hr hq, accepts_iff] at ready
  rcases ready with ⟨hs, isAttach⟩ | ⟨hs, notAttach⟩
  · exact ⟨_, .attach hs w _ hq (by rw [decodeRequest, isAttach])⟩
  · cases hop : ReqOp.ofCode (w.extractLsb' 48 2) with
    | attach => contradiction
    | read =>
      have hw : decodeRequest w = .reqRead (w.extractLsb' 32 16) (w.extractLsb' 0 32) := by rw [decodeRequest, hop]
      rcases Nat.lt_or_ge 262144 ((w.extractLsb' 32 16).toNat + (w.extractLsb' 0 32).toNat) with outOfRange | inRange
      · exact ⟨_, .readRejected hs w _ _ hq hw outOfRange⟩
      · exact ⟨_, .readAccepted hs w _ _ hq hw inRange⟩
    | write =>
      have hw : decodeRequest w = .reqWrite (w.extractLsb' 32 16) (w.extractLsb' 0 32) := by rw [decodeRequest, hop]
      rcases Nat.lt_or_ge 262144 ((w.extractLsb' 32 16).toNat + (w.extractLsb' 0 32).toNat) with outOfRange | inRange
      · exact ⟨_, .writeRejected hs w _ _ hq hw outOfRange⟩
      · rcases Nat.lt_or_ge 256 (w.extractLsb' 0 32).toNat with overPage | fits
        · exact ⟨_, .writeOverPage hs w _ _ hq hw inRange overPage⟩
        · exact ⟨_, .writeAccepted hs w _ _ hq hw inRange fits⟩
    | detach => exact ⟨_, .detach hs w _ hq (by rw [decodeRequest, hop])⟩

/-- A step in a resting state accepts the request presented, or waits. -/
theorem step_of_resting {s t : State} (h : step s = .next t) (hr : s.inp.rst = false)
    (hs : s.st = .detached ∨ s.st = .idle) : t = s.sample ∨ ∃ u, Row s u ∧ t = u.sample := by
  cases hq : s.inp.req with
  | none =>
    rw [step_resting hr hs, hq] at h
    cases h
    exact .inl rfl
  | some w =>
    cases ready : s.reqReady with
    | false =>
      rw [step_notReady hr hq hs ready] at h
      cases h
      exact .inl rfl
    | true =>
      obtain ⟨u, row⟩ := row_of_ready hr hq ready
      rw [row.step_eq hr] at h
      cases h
      exact .inr ⟨u, row, rfl⟩

/-- What a step without reset can do: wait, or take a row; then the next ports are loaded (R154, R155). -/
theorem step_row {s t : State} (hr : s.inp.rst = false) (h : step s = .next t) :
    t = s.sample ∨ ∃ u, Row s u ∧ t = u.sample := by
  cases hs : s.st with
  | detached => exact step_of_resting h hr (.inl hs)
  | idle => exact step_of_resting h hr (.inr hs)
  | probe => exact step_of_call h (step_probe hr hs) fun _ => row_of_probe hs
  | rdXfer => exact step_of_call h (step_rdXfer hr hs) fun _ => row_of_read hs
  | wrWren => exact step_of_call h (step_wrWren hr hs) fun _ => row_of_wren hs
  | wrXfer => exact step_of_call h (step_wrXfer hr hs) fun _ => row_of_write hs
  | pollRdsr => exact step_of_call h (step_pollRdsr hr hs) fun _ => row_of_poll hs
  | pollWait =>
    rw [step_waiting (.inl hs), idleStep_pollWait hr hs] at h
    cases h
    split_ifs with ht
    · by_cases hc : s.ivlCnt = 0
      · exact .inr ⟨_, .tickEnds hs ht hc, by rw [State.countTick, if_pos hc]⟩
      · exact .inr ⟨_, .tickCounts hs ht hc, by rw [State.countTick, if_neg hc]⟩
    · exact .inl rfl
  | respond =>
    rw [step_waiting (.inr hs), idleStep_respond hr hs] at h
    cases h
    split_ifs with taken
    · exact .inr ⟨_, .respond hs taken, rfl⟩
    · exact .inl rfl

/-- The induction principle of an invariant: the next ports are not in it, reset makes it, and a row keeps it. -/
theorem step_keeps {P : State → Prop} {s t : State} (ports : ∀ u, P u → P u.sample) (reset : P s.resetEvent)
    (row : ∀ u, Row s u → P u) (holds : P s) (h : step s = .next t) : P t := by
  cases hr : s.inp.rst with
  | true =>
    rw [step_reset hr] at h
    cases h
    exact ports _ reset
  | false =>
    rcases step_row hr h with rfl | ⟨u, hu, rfl⟩
    · exact ports _ holds
    · exact ports _ (row u hu)

/-- Settles O12: a request is accepted or waits, a call is answered or waits, and the other states fetch nothing. -/
theorem everyStepAnswersNext : Obligations.EveryStepAnswersNext := by
  intro s
  have call {c : Call} {k : State → Answer → State} (hstep : step s = Result.thenDo (busStep s c k) State.sample) :
      ∃ t, step s = .next t := by
    cases ha : s.answerTo c with
    | none => exact ⟨_, by rw [hstep, busStep_waits k ha, Result.thenDo]⟩
    | some a => exact ⟨_, step_answered hstep ha⟩
  have resting (hr : s.inp.rst = false) (hs : s.st = .detached ∨ s.st = .idle) : ∃ t, step s = .next t := by
    cases hq : s.inp.req with
    | none => exact ⟨s.sample, by rw [step_resting hr hs, hq]⟩
    | some w =>
      cases ready : s.reqReady with
      | false => exact ⟨_, step_notReady hr hq hs ready⟩
      | true =>
        obtain ⟨u, row⟩ := row_of_ready hr hq ready
        exact ⟨_, row.step_eq hr⟩
  cases hr : s.inp.rst with
  | true => exact ⟨_, step_reset hr⟩
  | false =>
    cases hs : s.st with
    | detached => exact resting hr (.inl hs)
    | idle => exact resting hr (.inr hs)
    | probe => exact call (step_probe hr hs)
    | rdXfer => exact call (step_rdXfer hr hs)
    | wrWren => exact call (step_wrWren hr hs)
    | wrXfer => exact call (step_wrXfer hr hs)
    | pollRdsr => exact call (step_pollRdsr hr hs)
    | pollWait => exact ⟨_, step_waiting (.inl hs)⟩
    | respond => exact ⟨_, step_waiting (.inr hs)⟩

end Sys2Proof

/-! What one step does to the state register, the logs and the handle (R24, R28, R152 to R154, R190): each read off the rows. -/

namespace Sys2Proof

open Sys2Proof.Machine Sys2Proof.Safety

/-! ### Parameters and the state register -/

/-- R24: no row writes a parameter. -/
theorem Row.cfg_eq {s u : State} (h : Row s u) : u.cfg = s.cfg := by
  cases h <;> simp

/-- Settles O41: no row writes a parameter, and neither does reset. -/
theorem stepKeepsParameters : Obligations.StepKeepsParameters := fun s _ h =>
  step_keeps (P := fun u => u.cfg = s.cfg) (fun u hu => (State.sample_cfg u).trans hu) (State.resetEvent_cfg s)
    (fun _ row => row.cfg_eq) rfl h

/-- R152: a response leads to one of the two resting states. -/
theorem afterResponse_resting (op : ReqOp) (res : ResultCode) :
    afterResponse op res = .detached ∨ afterResponse op res = .idle := by
  cases op <;> cases res <;> decide

/-- R154: a row goes to a successor that the table gives, and only a counting tick stays. -/
theorem Row.st_successor {s u : State} (h : Row s u) : u.st = s.st ∨ u.st ∈ successors s.st := by
  cases h with
  | tickCounts hs ht hc => exact .inl rfl
  | respond hs taken => right; simpa [successors, hs] using afterResponse_resting s.op s.res
  | _ => right; simp [successors, *]

/-- Settles O42: reset goes to `S_DETACHED`, and a row along the table. -/
theorem stateMovesByTheTable : Obligations.StateMovesByTheTable := by
  intro s t h
  constructor
  · intro hr
    rw [step_reset hr] at h
    cases h
    exact State.sample_st _
  · intro hr
    rcases step_row hr h with rfl | ⟨u, row, rfl⟩
    · exact .inl (State.sample_st s)
    · rw [State.sample_st]; exact row.st_successor

/-! ### The bus log -/

/-- R153: the rows of an answer log the outstanding call with it, and the other rows log nothing. -/
theorem Row.busLog_cases {s u : State} (h : Row s u) :
    u.busLog = s.busLog
      ∨ ∃ c a, s.outstandingCall = some c ∧ s.answerTo c = some a ∧ u.busLog = s.busLog ++ [⟨c, a⟩] := by
  cases h with
  | probeOk hs _ ha | probeErr hs _ ha | wrenOk hs ha | wrenErr hs _ ha | readOk hs _ ha | readErr hs _ ha
  | writeOk hs ha | writeErr hs _ ha | pollReady hs _ ha _ | pollBusy hs _ ha _ _ | pollTimeout hs _ ha _ _
  | pollErr hs _ ha => exact .inr ⟨_, _, by simp [State.outstandingCall, hs], ha, by simp⟩
  | _ => left; simp

/-- Settles O43: a wait logs nothing, and a row at most the outstanding call. -/
theorem oneCallPerStep : Obligations.OneCallPerStep := by
  intro s t hr h
  rcases step_row hr h with rfl | ⟨u, row, rfl⟩
  · exact .inl (State.sample_busLog s)
  · rw [State.sample_busLog]; exact row.busLog_cases

/-- The rules of the answers leave the bus log as the call made it. -/
@[simp] theorem afterProbe_busLog (s : State) (a : Answer) : (afterProbe s a).busLog = s.busLog := by
  cases a <;> rfl

@[simp] theorem afterWren_busLog (s : State) (a : Answer) : (afterWren s a).busLog = s.busLog := by
  cases a <;> rfl

@[simp] theorem afterRead_busLog (s : State) (a : Answer) : (afterRead s a).busLog = s.busLog := by
  cases a <;> rfl

@[simp] theorem afterWrite_busLog (s : State) (a : Answer) : (afterWrite s a).busLog = s.busLog := by
  cases a <;> rfl

@[simp] theorem afterPoll_busLog (s : State) (a : Answer) : (afterPoll s a).busLog = s.busLog := by
  cases a with
  | err e => simp [afterPoll]
  | ok rx => rw [afterPoll]; split_ifs <;> simp

/-- A bus-call step logs the answered call, when the rule of the answer leaves the log alone, and waits for the answer. -/
theorem busStep_logs {s : State} {c : Call} {k : State → Answer → State} (hk : ∀ u a, (k u a).busLog = u.busLog) :
    (∀ a, s.answerTo c = some a → ∃ t, busStep s c k = .next t ∧ t.busLog = s.busLog ++ [⟨c, a⟩])
      ∧ (s.answerTo c = none → busStep s c k = .next s) :=
  ⟨fun _ ha => ⟨_, busStep_answered k ha, by rw [hk, State.logCall_busLog]⟩, busStep_waits k⟩

/-- Settles O11: in each of the five states the header fetched is that of the outstanding call, whose bus-call step is run. -/
theorem outstandingCallIsMade : Obligations.OutstandingCallIsMade := by
  intro s call hr hc
  rw [State.outstandingCall] at hc
  split at hc <;> rename_i hs
  · cases hc
    have header : s.outstandingHeader = some [Config.opcRdsr] := by rw [State.outstandingHeader, hs]
    refine ⟨_, .rdsr, fetch_outstanding hr header, rfl, ?_⟩
    rw [exec, execRdsr, if_pos hs]
    exact busStep_logs afterProbe_busLog
  · cases hc
    have header : s.outstandingHeader = some (frameAddress Config.opcRead s.addr) := by
      rw [State.outstandingHeader, hs]
    refine ⟨_, .read s.addr, fetch_outstanding hr header, decode_readHeader s.addr, ?_⟩
    rw [exec, execRead, if_pos ⟨hs, rfl⟩]
    exact busStep_logs afterRead_busLog
  · cases hc
    have header : s.outstandingHeader = some [Config.opcWren] := by rw [State.outstandingHeader, hs]
    refine ⟨_, .wren, fetch_outstanding hr header, rfl, ?_⟩
    rw [exec, execWren, if_pos hs]
    exact busStep_logs afterWren_busLog
  · cases hc
    have header : s.outstandingHeader = some (frameAddress Config.opcWrite s.addr) := by
      rw [State.outstandingHeader, hs]
    refine ⟨_, .write s.addr, fetch_outstanding hr header, decode_writeHeader s.addr, ?_⟩
    rw [exec, execWrite, if_pos ⟨hs, rfl⟩]
    exact busStep_logs afterWrite_busLog
  · cases hc
    have header : s.outstandingHeader = some [Config.opcRdsr] := by rw [State.outstandingHeader, hs]
    have notProbe : s.st ≠ .probe := by simp [hs]
    refine ⟨_, .rdsr, fetch_outstanding hr header, rfl, ?_⟩
    rw [exec, execRdsr, if_neg notProbe, if_pos hs]
    exact busStep_logs afterPoll_busLog
  all_goals cases hc

/-! ### Responses -/

/-- R152: the response's row delivers what was presented, and no other row starts in `S_RESPOND` or delivers. -/
theorem Row.rspLog_cases {s u : State} (h : Row s u) :
    (s.st = .respond ∧ u.st ≠ .respond ∧ u.rspLog = s.rspLog ++ [s.response])
      ∨ (s.st ≠ .respond ∧ u.rspLog = s.rspLog) := by
  cases h with
  | respond hs taken =>
    have left : afterResponse s.op s.res ≠ .respond := by
      rcases afterResponse_resting s.op s.res with h | h <;> simp [h]
    exact .inl ⟨hs, left, rfl⟩
  | _ => right; simp [*]

/-- Settles O44: a wait keeps the state and the record, and the rows are those of `Row.rspLog_cases`. -/
theorem deliveredOnLeavingRespond : Obligations.DeliveredOnLeavingRespond := by
  intro s t hr h
  rcases step_row hr h with rfl | ⟨u, row, rfl⟩
  · exact .inr ⟨fun left => left.2 ((State.sample_st s).trans left.1), State.sample_rspLog s⟩
  · rw [State.sample_st, State.sample_rspLog]
    exact row.rspLog_cases.imp_right fun kept => ⟨fun left => kept.1 left.1, kept.2⟩

/-! ### Diagnostics -/

/-- The fields of a read that the decoder reads from a word. -/
theorem fields_of_decodeRequest_read {w : ReqWord} {addr : Addr} {len : Len}
    (h : decodeRequest w = .reqRead addr len) : w.extractLsb' 32 16 = addr ∧ w.extractLsb' 0 32 = len := by
  rw [decodeRequest] at h
  split at h <;> cases h
  exact ⟨rfl, rfl⟩

theorem fields_of_decodeRequest_write {w : ReqWord} {addr : Addr} {len : Len}
    (h : decodeRequest w = .reqWrite addr len) : w.extractLsb' 32 16 = addr ∧ w.extractLsb' 0 32 = len := by
  rw [decodeRequest] at h
  split at h <;> cases h
  exact ⟨rfl, rfl⟩

/-- R190, R191: the five rows that emit an event, each with its state and result, and the others that emit none. -/
theorem Row.diagLog_cases {s u : State} (h : Row s u) :
    u.diagLog = s.diagLog
      ∨ (s.st = .probe ∧ u.st = .respond ∧ u.res = .ok ∧ u.diagLog = s.diagLog ++ [⟨.attach, u.status⟩])
      ∨ (s.st = .pollRdsr ∧ u.st = .respond ∧ u.res = .timeout ∧ u.diagLog = s.diagLog ++ [⟨.timeout, 0x00⟩])
      ∨ (s.st = .idle ∧ u.st = .respond ∧ u.op = .detach ∧ u.res = .ok
        ∧ u.diagLog = s.diagLog ++ [⟨.detach, 0x00⟩])
      ∨ (s.st = .idle ∧ u.st = .respond ∧ u.op = .read ∧ u.res = .invalidArgument ∧ PortOutOfRange s
        ∧ u.diagLog = s.diagLog ++ [⟨.oobRead, 0x00⟩])
      ∨ (s.st = .idle ∧ u.st = .respond ∧ u.op = .write ∧ u.res = .invalidArgument ∧ PortOutOfRange s
        ∧ u.diagLog = s.diagLog ++ [⟨.oobWrite, 0x00⟩]) := by
  cases h with
  | probeOk hs b ha => exact .inr (.inl ⟨hs, rfl, rfl, rfl⟩)
  | pollTimeout hs b ha hb last => exact .inr (.inr (.inl ⟨hs, rfl, rfl, by simp⟩))
  | detach hs w x hq hw => exact .inr (.inr (.inr (.inl ⟨hs, rfl, rfl, rfl, rfl⟩)))
  | readRejected hs w addr len hq hw outOfRange =>
    obtain ⟨rfl, rfl⟩ := fields_of_decodeRequest_read hw
    exact .inr (.inr (.inr (.inr (.inl ⟨hs, rfl, rfl, rfl, ⟨w, hq, outOfRange⟩, rfl⟩))))
  | writeRejected hs w addr len hq hw outOfRange =>
    obtain ⟨rfl, rfl⟩ := fields_of_decodeRequest_write hw
    exact .inr (.inr (.inr (.inr (.inr ⟨hs, rfl, rfl, rfl, ⟨w, hq, outOfRange⟩, rfl⟩))))
  | _ => left; simp

/-- Settles O45: a wait emits nothing, and the rows are those of `Row.diagLog_cases`. -/
theorem diagnosticsAreTheFive : Obligations.DiagnosticsAreTheFive := by
  intro s t hr h
  rcases step_row hr h with rfl | ⟨u, row, rfl⟩
  · exact .inl (State.sample_diagLog s)
  · simp only [State.sample_diagLog, State.sample_st, State.sample_op, State.sample_res, State.sample_status]
    exact row.diagLog_cases

/-! ### The handle -/

/-- The handle is read from the state register and `op`, which the next ports leave alone. -/
@[simp] theorem sample_handleExists (s : State) : s.sample.handleExists = s.handleExists := by
  simp [State.handleExists]

/-- The request that each state of a transaction serves (R12). -/
def phaseOp : Phase → Option ReqOp
  | .probe => some .attach
  | .rdXfer => some .read
  | .wrWren | .wrXfer | .pollRdsr | .pollWait => some .write
  | .detached | .idle | .respond => none

/-- The invariant's clause on `op`. -/
theorem phaseInv_op {s : State} (h : PhaseInv s) {r : ReqOp} (hop : phaseOp s.st = some r) : s.op = r := by
  rw [PhaseInv] at h
  cases hs : s.st <;> rw [hs] at h hop <;> cases hop
  case probe => exact h
  all_goals exact h.1

/-- R28, R143: the handle comes with a successful attach's response and goes with a detach's acceptance. -/
theorem Row.handleExists_cases {s u : State} (h : Row s u) (inv : PhaseInv s) :
    (s.handleExists = false → u.handleExists = true → s.st = .respond ∧ s.op = .attach ∧ s.res = .ok)
      ∧ (s.handleExists = true → u.handleExists = false → s.st = .idle ∧ u.op = .detach ∧ u.st = .respond) := by
  have serves {r : ReqOp} (hop : phaseOp s.st = some r) : s.op = r := phaseInv_op inv hop
  cases h with
  | attach hs | tickEnds hs | tickCounts hs | readAccepted hs | writeAccepted hs | wrenOk hs | writeOk hs | pollBusy hs =>
    simp [State.handleExists, hs]
  | readRejected hs | writeRejected hs | writeOverPage hs | detach hs => simp [State.handleExists, hs]
  | probeOk hs | probeErr hs => simp [State.handleExists, hs, serves (r := .attach) (by rw [hs]; rfl)]
  | readOk hs | readErr hs => simp [State.handleExists, hs, serves (r := .read) (by rw [hs]; rfl)]
  | wrenErr hs | writeErr hs | pollReady hs | pollTimeout hs | pollErr hs =>
    simp [State.handleExists, hs, serves (r := .write) (by rw [hs]; rfl)]
  | respond hs taken =>
    cases hop : s.op <;> cases hres : s.res <;> simp [State.handleExists, hs, hop, hres, afterResponse]

/-- Settles O46: a wait keeps the handle, and the rows are those of `Row.handleExists_cases`. -/
theorem handleLifecycle : Obligations.HandleLifecycle := by
  rintro s t ⟨-, -, -, inv⟩ hr h
  rcases step_row hr h with rfl | ⟨u, row, rfl⟩
  · rw [sample_handleExists]
    exact ⟨fun gone there => absurd there (by simp [gone]), fun there gone => absurd there (by simp [gone])⟩
  · rw [sample_handleExists, State.sample_op, State.sample_st]
    exact row.handleExists_cases inv

end Sys2Proof

/-! The invariants (10_state.md section 3, 41_status_poller.md, 42_write_enable.md, 60_exceptions.md section 8.1): each holds
after reset and is kept by every row of the transition table. -/

namespace Sys2Proof

open Sys2Proof.Machine Sys2Proof.Safety

/-! ### The machine's invariant -/

/-- Settles O37: an empty array, a count of 0, and a state that asks nothing of its registers. -/
theorem resetHasInv : Obligations.ResetHasInv :=
  ⟨Config.atReset_wf, rfl, Nat.two_pow_pos _, trivial⟩

/-- No row takes the array out of its canonical form. -/
theorem Row.chip_wf {s u : State} (h : Row s u) (wf : Memory.wf s.chip.mem = true) : Memory.wf u.chip.mem = true := by
  have answered (c : Call) (a : Answer) : Memory.wf (s.logCall c a).chip.mem = true := chipAfter_wf c a wf
  cases h with
  | probeOk | probeErr | wrenOk | wrenErr | readOk | readErr | writeOk | writeErr | pollReady | pollBusy =>
    simpa using answered _ _
  | pollTimeout | pollErr =>
    simp only [State.raise_chip, State.emit_chip]
    exact loseWrite_wf (answered _ _)
  | _ => simpa using wf

/-- R19: a row loads the timer with `INTERVAL_TICKS`, counts it down, or leaves it. -/
theorem Row.ivlCnt_lt {s u : State} (h : Row s u) (fits : s.ivlCnt < 2 ^ ivlW s.cfg) : u.ivlCnt < 2 ^ ivlW u.cfg := by
  cases h with
  | pollBusy => exact intervalTicks_lt s.cfg
  | tickCounts => exact Nat.lt_of_le_of_lt (Nat.sub_le _ _) fits
  | _ => simpa using fits

/-- R18: below `MAX_ATTEMPTS` the 7 bits of the attempt counter do not wrap. -/
theorem attempt_succ_toNat {s : State} (wf : s.cfg.wf = true) (left : s.attempt.toNat + 1 < s.cfg.maxAttempts) :
    (s.attempt + 1).toNat = s.attempt.toNat + 1 := by
  have bound : s.attempt.toNat + 1 < 128 := Nat.lt_trans left ((wf_iff s.cfg).mp wf).2
  exact (BitVec.toNat_add _ _).trans (Nat.mod_eq_of_lt bound)

/-! What `S_RESPOND` asks of the registers, for each request but the detach. -/

theorem phaseInv_respond_attach {s : State} (hs : s.st = .respond) (hop : s.op = .attach)
    (h : s.res = .ok ∨ s.res = .transportError) : PhaseInv s := by
  simpa only [PhaseInv, ResponseInv, hs, hop] using h

theorem phaseInv_respond_read {s : State} (hs : s.st = .respond) (hop : s.op = .read) (notTimeout : s.res ≠ .timeout)
    (h : s.res ≠ .invalidArgument → s.addr.toNat + s.len.toNat ≤ Config.totalSize ∧ s.rbuf.length = s.len.toNat) :
    PhaseInv s := by
  simpa only [PhaseInv, ResponseInv, hs, hop] using ⟨notTimeout, h⟩

theorem phaseInv_respond_write {s : State} (hs : s.st = .respond) (hop : s.op = .write)
    (h : s.res ≠ .invalidArgument → WriteOperands s) : PhaseInv s := by
  simpa only [PhaseInv, ResponseInv, hs, hop] using h

/-- Each row makes the registers what the state it leads to asks of them (R12 to R21, R97). -/
theorem Row.phaseInv {s u : State} (h : Row s u) (wf : s.cfg.wf = true) (inv : PhaseInv s) : PhaseInv u := by
  cases h with
  | attach => exact rfl
  | readAccepted hs w addr len hq hw inRange => exact ⟨rfl, inRange⟩
  | readRejected => exact phaseInv_respond_read rfl rfl nofun fun h => absurd rfl h
  | writeAccepted hs w addr len hq hw inRange fits => exact ⟨rfl, inRange, fits, captureData_length _ _⟩
  | writeRejected | writeOverPage => exact phaseInv_respond_write rfl rfl fun h => absurd rfl h
  | detach => exact rfl
  | probeOk hs =>
    simp only [PhaseInv, hs] at inv
    exact phaseInv_respond_attach rfl inv (.inl rfl)
  | probeErr hs =>
    simp only [PhaseInv, hs] at inv
    exact phaseInv_respond_attach rfl inv (.inr rfl)
  | wrenOk hs =>
    simp only [PhaseInv, hs] at inv
    exact inv
  | readOk hs rx ha =>
    simp only [PhaseInv, hs] at inv
    have length := answerTo_length ((legalCall_iff _).mpr (.inr (.inr (.inl ⟨_, _, rfl⟩)))) ha
    exact phaseInv_respond_read rfl inv.1 nofun fun _ => ⟨inv.2, length.trans (readCall_rxCount _ _)⟩
  | readErr hs =>
    simp only [PhaseInv, hs] at inv
    exact phaseInv_respond_read rfl inv.1 nofun fun _ => ⟨inv.2, anyBytes_length _ _⟩
  | writeOk hs =>
    simp only [PhaseInv, hs] at inv
    exact ⟨inv.1, inv.2, ((wf_iff s.cfg).mp wf).1⟩
  | wrenErr hs | writeErr hs =>
    simp only [PhaseInv, hs] at inv
    exact phaseInv_respond_write rfl inv.1 fun _ => inv.2
  | pollReady hs =>
    simp only [PhaseInv, hs] at inv
    exact phaseInv_respond_write rfl inv.1 fun _ => inv.2.1
  | pollTimeout hs | pollErr hs =>
    simp only [PhaseInv, hs] at inv
    exact phaseInv_respond_write (State.raise_st _ _) (by simpa using inv.1) fun _ => by simpa [WriteOperands] using inv.2.1
  | pollBusy hs b ha hb left =>
    simp only [PhaseInv, hs] at inv
    have counted := attempt_succ_toNat wf left
    refine ⟨inv.1, inv.2.1, ?_, ?_, Nat.le_refl _⟩
    · exact counted ▸ Nat.le_add_left 1 _
    · exact counted ▸ left
  | tickEnds hs =>
    simp only [PhaseInv, hs] at inv
    obtain ⟨hop, operands, -, below, -⟩ := inv
    exact ⟨hop, operands, below⟩
  | tickCounts hs =>
    simp only [PhaseInv, hs] at inv ⊢
    obtain ⟨hop, operands, counted, below, timer⟩ := inv
    exact ⟨hop, operands, counted, below, Nat.le_trans (Nat.sub_le _ _) timer⟩
  | respond =>
    rcases afterResponse_resting s.op s.res with h | h <;> simp [PhaseInv, h]

/-- The invariant does not speak of the ports. -/
theorem machineInv_sample {s : State} (h : MachineInv s) : MachineInv s.sample := by
  simpa [MachineInv, PhaseInv, ResponseInv, WriteOperands] using h

/-- R200: reset leaves a legal machine, whatever registers it leaves. -/
theorem machineInv_resetEvent {s : State} (h : MachineInv s) : MachineInv s.resetEvent := by
  obtain ⟨wf, array, -, -⟩ := h
  exact ⟨wf, abandonedChip_wf array, fitTimer_lt _ _, trivial⟩

/-- Settles O36: each of the four clauses is kept by every row. -/
theorem stepKeepsInv : Obligations.StepKeepsInv := by
  intro s t inv h
  refine step_keeps (fun _ => machineInv_sample) (machineInv_resetEvent inv) (fun u row => ?_) inv h
  obtain ⟨wf, array, timer, phase⟩ := inv
  exact ⟨(congrArg Config.wf row.cfg_eq).trans wf, row.chip_wf array, row.ivlCnt_lt timer, row.phaseInv wf phase⟩

/-! ### The calls in the bus log -/

/-- R153: the outstanding call is one of the four messages. -/
theorem outstandingCall_legal {s : State} {c : Call} (h : s.outstandingCall = some c) : LegalCall c := by
  rw [legalCall_iff]
  rw [State.outstandingCall] at h
  split at h <;> cases h
  · exact .inr (.inl rfl)
  · exact .inr (.inr (.inl ⟨_, _, rfl⟩))
  · exact .inl rfl
  · exact .inr (.inr (.inr ⟨_, _, rfl⟩))
  · exact .inr (.inl rfl)

/-- Settles O38: the one new entry is the outstanding call, with an answer of its length. -/
theorem stepKeepsLogLegal : Obligations.StepKeepsLogLegal := by
  intro s t legal h
  refine step_keeps (P := fun u => LogLegal u.busLog) (fun u hu => ?_) nofun (fun u row => ?_) legal h
  · rwa [State.sample_busLog]
  · rcases row.busLog_cases with kept | ⟨c, a, hc, ha, logged⟩
    · rwa [kept]
    · rw [logged]
      intro e he
      rcases List.mem_append.mp he with old | new
      · exact legal e old
      · obtain rfl := List.mem_singleton.mp new
        have legalCall := outstandingCall_legal hc
        refine ⟨legalCall, fun rx isOk => ?_⟩
        subst isOk
        exact answerTo_length legalCall ha

/-! ### WREN before WRITE -/

/-- A log keeps the rule when one more entry is no WRITE, or stands right behind a WREN. -/
theorem wrenBeforeWrite_append {log : List BusEntry} {e : BusEntry} (old : WrenBeforeWrite log)
    (new : ∀ a d, e.call = writeCall a d → ∃ p, log = p ++ [wrenEntry]) : WrenBeforeWrite (log ++ [e]) := by
  intro p a d ans rest h
  rcases List.eq_nil_or_concat rest with rfl | ⟨front, last, rfl⟩
  · obtain ⟨rfl, entry⟩ := List.append_inj' h rfl
    obtain rfl := (List.cons.inj entry).1
    exact new a d rfl
  · rw [List.concat_eq_append, ← List.cons_append, ← List.append_assoc] at h
    exact old p a d ans front (List.append_inj' h rfl).1

/-- A WRITE is outstanding in `S_WR_XFER` alone. -/
theorem st_of_outstanding_writeCall {s : State} {a : Addr} {d : List Byte}
    (h : s.outstandingCall = some (writeCall a d)) : s.st = .wrXfer := by
  rw [State.outstandingCall] at h
  cases hs : s.st with
  | wrXfer => rfl
  | _ => rw [hs] at h; cases h

/-- R111: the one row to `S_WR_XFER` is the WREN answered `Ok`. -/
theorem Row.wrXfer_behind_wren {s u : State} (h : Row s u) (hu : u.st = .wrXfer) : u.busLog = s.busLog ++ [wrenEntry] := by
  cases h with
  | wrenOk => rfl
  | respond =>
    rcases afterResponse_resting s.op s.res with h | h <;> rw [State.deliverResponse_st, h] at hu <;> cases hu
  | tickCounts hs => rw [hs] at hu; cases hu
  | _ => simp at hu

/-- Settles O39: the WRITE is outstanding only where the log ends in the WREN. -/
theorem stepKeepsWrenBeforeWrite : Obligations.StepKeepsWrenBeforeWrite := by
  intro s t old behind h
  refine step_keeps
    (P := fun u => WrenBeforeWrite u.busLog ∧ (u.st = .wrXfer → ∃ p, u.busLog = p ++ [wrenEntry]))
    (fun u hu => ?_) ⟨?_, nofun⟩ (fun u row => ⟨?_, fun hu => ⟨_, row.wrXfer_behind_wren hu⟩⟩) ⟨old, behind⟩ h
  · rwa [State.sample_busLog, State.sample_st]
  · intro p a d ans rest h
    simp at h
  · rcases row.busLog_cases with kept | ⟨c, a, hc, ha, logged⟩
    · rwa [kept]
    · rw [logged]
      refine wrenBeforeWrite_append old fun addr d isWrite => behind (st_of_outstanding_writeCall (a := addr) (d := d) ?_)
      rw [hc]
      exact congrArg some isWrite

/-! ### The progress of a write -/

/-- One more status read in a write's trace. -/
theorem writeTrace_append (s : State) (bs : List Byte) (b : Byte) :
    writeTrace s (bs ++ [b]) = writeTrace s bs ++ [rdsrEntry b] := by
  simp [writeTrace]

/-- A status read answered `Ok` is the next entry of the trace of a write whose address and data stay. -/
theorem writeTrace_rdsr {s u : State} {p : List BusEntry} {bs : List Byte} {b : Byte}
    (hlog : s.busLog = p ++ writeTrace s bs) (haddr : u.addr = s.addr) (hwbuf : u.wbuf = s.wbuf)
    (logged : u.busLog = s.busLog ++ [rdsrEntry b]) : u.busLog = p ++ writeTrace u (bs ++ [b]) := by
  have sameTrace : writeTrace u bs = writeTrace s bs := by rw [writeTrace, writeTrace, haddr, hwbuf]
  rw [writeTrace_append, sameTrace, logged, hlog, List.append_assoc]

/-- A response says nothing of the log unless a write ended with `OK` or `TIMEOUT`. -/
theorem writeProgress_respond {s : State} (hs : s.st = .respond)
    (h : s.op ≠ .write ∨ s.res = .invalidArgument ∨ s.res = .transportError) : WriteProgress s := by
  rw [WriteProgress, hs]
  intro hop
  rcases h with other | h | h
  · exact absurd hop other
  · exact ⟨fun ok => by simp [h] at ok, fun timeout => by simp [h] at timeout⟩
  · exact ⟨fun ok => by simp [h] at ok, fun timeout => by simp [h] at timeout⟩

/-- Each row leaves the log as far as the state it leads to says (R50, R97, R130). -/
theorem Row.writeProgress {s u : State} (h : Row s u) (wf : s.cfg.wf = true) (inv : PhaseInv s)
    (progress : WriteProgress s) : WriteProgress u := by
  have serves {r : ReqOp} (hop : phaseOp s.st = some r) : s.op = r := phaseInv_op inv hop
  cases h with
  | attach | readAccepted | writeAccepted => exact trivial
  | readRejected | detach => exact writeProgress_respond rfl (.inl nofun)
  | writeRejected | writeOverPage => exact writeProgress_respond rfl (.inr (.inl rfl))
  | probeOk hs | probeErr hs =>
    have attaching : s.op = .attach := serves (by rw [hs]; rfl)
    exact writeProgress_respond rfl (.inl (by simp [attaching]))
  | readOk hs | readErr hs =>
    have reading : s.op = .read := serves (by rw [hs]; rfl)
    exact writeProgress_respond rfl (.inl (by simp [reading]))
  | wrenErr | writeErr => exact writeProgress_respond rfl (.inr (.inr rfl))
  | pollErr => exact writeProgress_respond rfl (.inr (.inr rfl))
  | wrenOk => exact ⟨s.busLog, rfl⟩
  | writeOk hs =>
    simp only [WriteProgress, hs] at progress
    obtain ⟨p, hlog⟩ := progress
    refine ⟨p, [], ?_, rfl, nofun⟩
    simp [hlog, writeTrace, writeEntry]
  | pollReady hs b ha hb =>
    simp only [WriteProgress, hs] at progress
    simp only [PhaseInv, hs] at inv
    obtain ⟨p, bs, hlog, hlen, allBusy⟩ := progress
    exact fun _ => ⟨fun _ => ⟨p, bs, b, writeTrace_rdsr hlog rfl rfl rfl, hlen ▸ inv.2.2, allBusy, hb⟩, nofun⟩
  | pollBusy hs b ha hb left =>
    simp only [WriteProgress, hs] at progress
    obtain ⟨p, bs, hlog, hlen, allBusy⟩ := progress
    refine ⟨p, bs ++ [b], writeTrace_rdsr hlog rfl rfl rfl, ?_, ?_⟩
    · rw [List.length_append, hlen]
      exact (attempt_succ_toNat wf left).symm
    · simpa [or_imp, forall_and] using ⟨allBusy, hb⟩
  | pollTimeout hs b ha hb last =>
    simp only [WriteProgress, hs] at progress
    simp only [PhaseInv, hs] at inv
    obtain ⟨p, bs, hlog, hlen, allBusy⟩ := progress
    refine fun _ => ⟨nofun, fun _ => ⟨p, bs ++ [b], ?_, ?_, ?_⟩⟩
    · exact writeTrace_rdsr hlog (by simp) (by simp) (by simp [rdsrEntry])
    · have below := inv.2.2
      simp only [List.length_append, List.length_singleton, State.raise_cfg, State.emit_cfg, State.loseWrite_cfg,
        State.logCall_cfg]
      omega
    · simpa [or_imp, forall_and] using ⟨allBusy, hb⟩
  | tickEnds hs | tickCounts hs =>
    simp only [WriteProgress, hs] at progress ⊢
    exact progress
  | respond =>
    rcases afterResponse_resting s.op s.res with h | h <;> simp [WriteProgress, h]

/-- The progress of a write does not speak of the ports. -/
theorem writeProgress_sample {s : State} (h : WriteProgress s) : WriteProgress s.sample := by
  simpa [WriteProgress, writeTrace] using h

/-- Settles O40: reset leaves no write, and every row counts the status read it logs. -/
theorem stepKeepsWriteProgress : Obligations.StepKeepsWriteProgress := by
  rintro s t ⟨wf, -, -, inv⟩ progress h
  exact step_keeps (fun _ => writeProgress_sample) trivial (fun _ row => row.writeProgress wf inv progress) progress h

end Sys2Proof

/-! What a step does not depend on (10_state.md section 9, R29): registers that the present state can no longer read. -/

namespace Sys2Proof

open Sys2Proof.Machine Sys2Proof.Safety

/-! ### Two machines in step -/

/-- Two machines, out of reset, whose rows match by `R`, both wait or both take matching rows. -/
theorem step_matched {R : State → State → Prop} {s t s' : State} (hs : s.inp.rst = false) (ht : t.inp.rst = false)
    (base : R s t) (forth : ∀ u, Row s u → ∃ v, Row t v ∧ R u v) (back : ∀ v, Row t v → ∃ u, Row s u ∧ R u v)
    (h : step s = .next s') : ∃ u v, R u v ∧ s' = u.sample ∧ step t = .next v.sample := by
  rcases step_row hs h with rfl | ⟨u, row, rfl⟩
  · obtain ⟨t', ht'⟩ := everyStepAnswersNext t
    rcases step_row ht ht' with rfl | ⟨v, row, rfl⟩
    · exact ⟨s, t, base, rfl, ht'⟩
    · obtain ⟨u, row', matched⟩ := back v row
      exact ⟨u, v, matched, Host.Outcome.next.inj (h.symm.trans (row'.step_eq hs)), ht'⟩
  · obtain ⟨v, row', matched⟩ := forth u row
    exact ⟨u, v, matched, rfl, row'.step_eq ht⟩

/-! ### Machines that differ in registers alone -/

/-- The transaction registers of a state. -/
def regsOf (s : State) : Regs where
  op := s.op
  addr := s.addr
  len := s.len
  wbuf := s.wbuf
  rbuf := s.rbuf
  status := s.status
  attempt := s.attempt
  ivlCnt := s.ivlCnt
  res := s.res
  terr := s.terr

/-- `s` with other transaction registers, the timer as it is given. -/
def withRegs (s : State) (r : Regs) : State :=
  { s with
    op := r.op
    addr := r.addr
    len := r.len
    wbuf := r.wbuf
    rbuf := r.rbuf
    status := r.status
    attempt := r.attempt
    ivlCnt := r.ivlCnt
    res := r.res
    terr := r.terr }

/-- Machines that look the same from outside differ in their registers alone. -/
theorem withRegs_of_sameLive {s t : State} (h : SameLive s t) : t = withRegs s (regsOf t) ∧ SameLiveRegs s t := by
  obtain ⟨hcfg, hst, hchip, hbus, hdiag, hrsp, hinp, hscript, hdraws, regs⟩ := h
  refine ⟨?_, regs⟩
  cases s
  cases t
  simp_all [withRegs, regsOf]

theorem sameLive_of_regs {s t : State} (h : t = withRegs s (regsOf t)) (regs : SameLiveRegs s t) : SameLive s t := by
  refine ⟨?_, ?_, ?_, ?_, ?_, ?_, ?_, ?_, ?_, regs⟩ <;> rw [h] <;> rfl

theorem sameLive_symm {s t : State} (h : SameLive s t) : SameLive t s := by
  obtain ⟨hcfg, hst, hchip, hbus, hdiag, hrsp, hinp, hscript, hdraws, regs⟩ := h
  refine ⟨hcfg.symm, hst.symm, hchip.symm, hbus.symm, hdiag.symm, hrsp.symm, hinp.symm, hscript.symm, hdraws.symm, ?_⟩
  unfold SameLiveRegs at regs ⊢
  rw [← hst]
  cases hs : s.st <;> simp only [hs] at regs ⊢
  case respond =>
    obtain ⟨hop, hres, hterr, hrbuf⟩ := regs
    rw [hop, hres] at hrbuf
    rw [hres] at hterr
    exact ⟨hop.symm, hres.symm, fun h => (hterr h).symm, fun h h' => (hrbuf h h').symm⟩
  all_goals simp only [regs, and_self]

/-- In a transaction `op` is live. -/
theorem sameLiveRegs_op {s t : State} (h : SameLiveRegs s t) {r : ReqOp} (hop : phaseOp s.st = some r) :
    s.op = t.op := by
  rw [SameLiveRegs] at h
  cases hs : s.st <;> rw [hs] at h hop <;> cases hop
  case probe => exact h
  all_goals exact h.1

/-- Loading the next ports reads the script and the draw counter, and no register. -/
theorem sample_withRegs (s : State) (r : Regs) : (withRegs s r).sample = withRegs s.sample r := by
  cases hs : s.script with
  | nil => rw [sample_nil hs, sample_nil (s := withRegs s r) hs]; rfl
  | cons x rest => rw [sample_cons hs, sample_cons (s := withRegs s r) hs]; rfl

theorem sameLive_sample {s t : State} (h : SameLive s t) : SameLive s.sample t.sample := by
  obtain ⟨ht, regs⟩ := withRegs_of_sameLive h
  refine sameLive_of_regs ?_ (by simpa [SameLiveRegs] using regs)
  rw [ht, sample_withRegs]
  rfl

theorem emit_withRegs (s : State) (r : Regs) (c : DiagCode) (b : Byte) :
    (withRegs s r).emit c b = withRegs (s.emit c b) r := rfl

/-- A lost write reads `addr` and `len`, and no other register. -/
theorem loseWrite_withRegs {s : State} {r : Regs} (haddr : s.addr = r.addr) (hlen : s.len = r.len) :
    (withRegs s r).loseWrite = withRegs s.loseWrite r := by
  cases hb : s.cfg.backend with
  | oracle => rw [loseWrite_oracle hb, loseWrite_oracle (s := withRegs s r) hb]
  | chip => simp only [State.loseWrite, withRegs, hb, haddr, hlen]

/-- A failure raised in machines that serve the same request leaves no other register live. -/
theorem sameLive_raise {s t : State} {r : Regs} (ht : t = withRegs s r) (hop : s.op = t.op) (f : Failure) :
    SameLive (s.raise f) (t.raise f) := by
  subst ht
  cases f with
  | invalidArgument => exact sameLive_of_regs rfl ⟨hop, rfl, nofun, nofun⟩
  | transportError e => exact sameLive_of_regs rfl ⟨hop, rfl, fun _ => rfl, nofun⟩
  | timeout => exact sameLive_of_regs rfl ⟨hop, rfl, nofun, nofun⟩

/-- R152: the response shows `terr` and `rbuf` only where they are live. -/
theorem response_sameLive {s t : State} (hs : s.st = .respond) (h : SameLiveRegs s t) : s.response = t.response := by
  rw [SameLiveRegs, hs] at h
  obtain ⟨hop, hres, hterr, hrbuf⟩ := h
  have sameTErr : (if s.res = .transportError then some s.terr else none) =
      if s.res = .transportError then some t.terr else none := by split_ifs with isErr <;> [rw [hterr isErr]; rfl]
  have sameData : (if s.op = .read ∧ s.res = .ok then some s.rbuf else none) =
      if s.op = .read ∧ s.res = .ok then some t.rbuf else none :=
    by split_ifs with isData <;> [rw [hrbuf isData.1 isData.2]; rfl]
  rw [State.response, State.response, sameTErr, sameData, hop, hres]

/-- A delivered response leaves no register live. -/
theorem sameLiveRegs_deliverResponse (s t : State) : SameLiveRegs s.deliverResponse t := by
  rcases afterResponse_resting s.op s.res with h | h <;> simp [SameLiveRegs, h]

/-- R201: what reset leaves of the chip reads `addr` and `len` only where they are live. -/
theorem abandonedChip_sameLive {s t : State} (h : SameLive s t) : s.abandonedChip = t.abandonedChip := by
  obtain ⟨hcfg, hst, hchip, -, -, -, -, -, hdraws, regs⟩ := h
  unfold SameLiveRegs at regs
  unfold State.abandonedChip
  rw [← hcfg, ← hst, ← hchip, ← hdraws]
  cases s.cfg.backend with
  | oracle => rfl
  | chip => cases hs : s.st <;> simp only [hs] at regs ⊢ <;> simp only [regs]

/-- R200: after reset no register is live. -/
theorem sameLive_resetEvent {s t : State} (h : SameLive s t) : SameLive s.resetEvent t.resetEvent := by
  have sameChip := abandonedChip_sameLive h
  obtain ⟨hcfg, -, -, -, -, -, hinp, hscript, hdraws, -⟩ := h
  exact ⟨hcfg, rfl, sameChip, rfl, rfl, rfl, hinp, hscript, congrArg (· + 1) hdraws, trivial⟩

/-- A machine that agrees on the live registers takes the same row, and again agrees. -/
theorem Row.sameLive {s t u : State} (h : Row s u) (serves : ∀ r, phaseOp s.st = some r → s.op = r)
    (live : SameLive s t) : ∃ v, Row t v ∧ SameLive u v := by
  obtain ⟨ht, regs⟩ := withRegs_of_sameLive live
  generalize regsOf t = r at ht
  subst ht
  obtain ⟨op, addr, len, wbuf, rbuf, status, attempt, ivlCnt, res, terr⟩ := r
  unfold SameLiveRegs at regs
  cases h with
  | attach hs w x hq hw => exact ⟨_, .attach (s := withRegs s _) hs w x hq hw, sameLive_of_regs rfl rfl⟩
  | readAccepted hs w addr len hq hw inRange =>
    exact ⟨_, .readAccepted (s := withRegs s _) hs w addr len hq hw inRange, sameLive_of_regs rfl ⟨rfl, rfl, rfl⟩⟩
  | readRejected hs w addr len hq hw outOfRange =>
    exact ⟨_, .readRejected (s := withRegs s _) hs w addr len hq hw outOfRange,
      sameLive_of_regs rfl ⟨rfl, rfl, nofun, nofun⟩⟩
  | writeAccepted hs w addr len hq hw inRange fits =>
    exact ⟨_, .writeAccepted (s := withRegs s _) hs w addr len hq hw inRange fits,
      sameLive_of_regs rfl ⟨rfl, rfl, rfl, rfl⟩⟩
  | writeRejected hs w addr len hq hw outOfRange =>
    exact ⟨_, .writeRejected (s := withRegs s _) hs w addr len hq hw outOfRange,
      sameLive_of_regs rfl ⟨rfl, rfl, nofun, nofun⟩⟩
  | writeOverPage hs w addr len hq hw inRange overPage =>
    exact ⟨_, .writeOverPage (s := withRegs s _) hs w addr len hq hw inRange overPage,
      sameLive_of_regs rfl ⟨rfl, rfl, nofun, nofun⟩⟩
  | detach hs w x hq hw =>
    exact ⟨_, .detach (s := withRegs s _) hs w x hq hw, sameLive_of_regs rfl ⟨rfl, rfl, nofun, nofun⟩⟩
  | probeOk hs b ha =>
    have notRead : s.op ≠ .read := by rw [serves .attach (by rw [hs]; rfl)]; decide
    rw [hs] at regs
    cases regs
    exact ⟨_, .probeOk (s := withRegs s _) hs b ha,
      sameLive_of_regs rfl ⟨rfl, rfl, nofun, fun isRead => absurd isRead notRead⟩⟩
  | probeErr hs e ha =>
    rw [hs] at regs
    cases regs
    exact ⟨_, .probeErr (s := withRegs s _) hs e ha, sameLive_of_regs rfl ⟨rfl, rfl, fun _ => rfl, nofun⟩⟩
  | wrenOk hs ha =>
    rw [hs] at regs
    exact ⟨_, .wrenOk (s := withRegs s _) hs ha, sameLive_of_regs rfl regs⟩
  | wrenErr hs e ha =>
    rw [hs] at regs
    exact ⟨_, .wrenErr (s := withRegs s _) hs e ha, sameLive_of_regs rfl ⟨regs.1, rfl, fun _ => rfl, nofun⟩⟩
  | readOk hs rx ha =>
    rw [hs] at regs
    obtain ⟨rfl, rfl, rfl⟩ := regs
    exact ⟨_, .readOk (s := withRegs s _) hs rx ha, sameLive_of_regs rfl ⟨rfl, rfl, nofun, fun _ _ => rfl⟩⟩
  | readErr hs e ha =>
    rw [hs] at regs
    obtain ⟨rfl, rfl, rfl⟩ := regs
    exact ⟨_, .readErr (s := withRegs s _) hs e ha, sameLive_of_regs rfl ⟨rfl, rfl, fun _ => rfl, nofun⟩⟩
  | writeOk hs ha =>
    rw [hs] at regs
    obtain ⟨rfl, rfl, rfl, rfl⟩ := regs
    exact ⟨_, .writeOk (s := withRegs s _) hs ha, sameLive_of_regs rfl ⟨rfl, rfl, rfl, rfl⟩⟩
  | writeErr hs e ha =>
    rw [hs] at regs
    obtain ⟨rfl, rfl, rfl, rfl⟩ := regs
    exact ⟨_, .writeErr (s := withRegs s _) hs e ha, sameLive_of_regs rfl ⟨rfl, rfl, fun _ => rfl, nofun⟩⟩
  | pollReady hs b ha hb =>
    have notRead : s.op ≠ .read := by rw [serves .write (by rw [hs]; rfl)]; decide
    rw [hs] at regs
    obtain ⟨rfl, rfl, rfl, rfl⟩ := regs
    exact ⟨_, .pollReady (s := withRegs s _) hs b ha hb,
      sameLive_of_regs rfl ⟨rfl, rfl, nofun, fun isRead => absurd isRead notRead⟩⟩
  | pollBusy hs b ha hb left =>
    rw [hs] at regs
    obtain ⟨rfl, rfl, rfl, rfl⟩ := regs
    exact ⟨_, .pollBusy (s := withRegs s _) hs b ha hb left, sameLive_of_regs rfl ⟨rfl, rfl, rfl, rfl, rfl⟩⟩
  | pollTimeout hs b ha hb last =>
    rw [hs] at regs
    obtain ⟨rfl, rfl, rfl, rfl⟩ := regs
    have lost := loseWrite_withRegs (s := { s.logCall rdsrCall (.ok [b]) with status := b })
      (r := ⟨s.op, s.addr, s.len, wbuf, rbuf, b, s.attempt, ivlCnt, res, terr⟩) rfl rfl
    exact ⟨_, .pollTimeout (s := withRegs s _) hs b ha hb last,
      sameLive_raise ((congrArg (State.emit · .timeout 0x00) lost).trans (emit_withRegs _ _ _ _)) (by simp [withRegs]) _⟩
  | pollErr hs e ha =>
    rw [hs] at regs
    obtain ⟨rfl, rfl, rfl, rfl⟩ := regs
    have lost := loseWrite_withRegs (s := s.logCall rdsrCall (.err e))
      (r := ⟨s.op, s.addr, s.len, wbuf, rbuf, status, s.attempt, ivlCnt, res, terr⟩) rfl rfl
    exact ⟨_, .pollErr (s := withRegs s _) hs e ha, sameLive_raise lost (by simp [withRegs]) _⟩
  | tickEnds hs ht hc =>
    rw [hs] at regs
    obtain ⟨rfl, rfl, rfl, rfl, rfl⟩ := regs
    exact ⟨_, .tickEnds (s := withRegs s _) hs ht hc, sameLive_of_regs rfl ⟨rfl, rfl, rfl, rfl⟩⟩
  | tickCounts hs ht hc =>
    rw [hs] at regs
    obtain ⟨rfl, rfl, rfl, rfl, rfl⟩ := regs
    refine ⟨_, .tickCounts (s := withRegs s _) hs ht hc, sameLive_of_regs rfl ?_⟩
    simp [SameLiveRegs, hs, withRegs]
  | respond hs taken =>
    have sameResponse := response_sameLive hs regs
    rw [hs] at regs
    obtain ⟨rfl, rfl, -, -⟩ := regs
    refine ⟨_, .respond (s := withRegs s _) hs taken, sameLive_of_regs ?_ (sameLiveRegs_deliverResponse _ _)⟩
    rw [State.deliverResponse, ← sameResponse]
    rfl

/-- Settles O47: matching rows keep the agreement, the next ports and a reset do not look at a register. -/
theorem staleRegistersMakeNoDifference : Obligations.StaleRegistersMakeNoDifference := by
  rintro s t s' ⟨-, -, -, inv⟩ live h
  have serves (r : ReqOp) (hop : phaseOp s.st = some r) : s.op = r := phaseInv_op inv hop
  obtain ⟨-, sameSt, -, -, -, -, sameInp, -, -, regs⟩ := id live
  have serves' (r : ReqOp) (hop : phaseOp t.st = some r) : t.op = r := by
    rw [← sameSt] at hop
    exact (sameLiveRegs_op regs hop).symm.trans (serves r hop)
  cases hr : s.inp.rst with
  | true =>
    rw [step_reset hr] at h
    cases h
    exact ⟨_, step_reset (sameInp ▸ hr), sameLive_sample (sameLive_resetEvent live)⟩
  | false =>
    obtain ⟨u, v, matched, rfl, ht⟩ := step_matched hr (sameInp ▸ hr) live (fun _ row => row.sameLive serves live)
      (fun _ row => (row.sameLive serves' (sameLive_symm live)).imp fun _ h => ⟨h.1, sameLive_symm h.2⟩) h
    exact ⟨_, ht, sameLive_sample matched⟩

end Sys2Proof

/-! The events without an instruction (41_status_poller.md section 3, 46_sequencer_fsm.md section 3, 70_reset_and_hazards.md):
the tick, the response and the reset; and the ports of a call (10_state.md R31) with the width of the timer (R6). -/

namespace Sys2Proof

open Sys2Proof.Machine Sys2Proof.Safety

/-! ### The tick -/

/-- `s` with another tick on its port. -/
def withTick (s : State) (b : Bool) : State := { s with inp := { s.inp with tick := b } }

/-- Loading the next ports forgets the tick. -/
theorem sample_withTick (s : State) (b : Bool) : (withTick s b).sample = s.sample := by
  cases hs : s.script with
  | nil => rw [sample_nil hs, sample_nil (s := withTick s b) hs]; rfl
  | cons x rest => rw [sample_cons hs, sample_cons (s := withTick s b) hs]; rfl

/-- A lost write does not look at the ports. -/
theorem loseWrite_withTick (s : State) (b : Bool) : (withTick s b).loseWrite = withTick s.loseWrite b := by
  cases hb : s.cfg.backend with
  | oracle => rw [loseWrite_oracle hb, loseWrite_oracle (s := withTick s b) hb]
  | chip => simp only [State.loseWrite, withTick, hb]

/-- The two ends of a poll that lose the write leave the ports alone. -/
theorem timeout_withTick (s : State) (b : Bool) :
    ((withTick s b).loseWrite.emit .timeout 0x00).raise .timeout =
      withTick ((s.loseWrite.emit .timeout 0x00).raise .timeout) b := by
  rw [loseWrite_withTick]
  rfl

theorem lostRaise_withTick (s : State) (e : TErr) (b : Bool) :
    (withTick s b).loseWrite.raise (.transportError e) = withTick (s.loseWrite.raise (.transportError e)) b := by
  rw [loseWrite_withTick]
  rfl

/-- No row writes the input ports. -/
theorem Row.inp_eq {s u : State} (h : Row s u) : u.inp = s.inp := by
  cases h <;> simp

/-- R101: outside `S_POLL_WAIT` no row looks at the tick. -/
theorem row_withTick {s u : State} (h : Row s u) (b : Bool) (hs : s.st ≠ .pollWait) :
    Row (withTick s b) (withTick u b) := by
  cases h with
  | attach hs w x hq hw => exact .attach (s := withTick s b) hs w x hq hw
  | readAccepted hs w addr len hq hw inRange =>
    exact .readAccepted (s := withTick s b) hs w addr len hq hw inRange
  | readRejected hs w addr len hq hw outOfRange =>
    exact .readRejected (s := withTick s b) hs w addr len hq hw outOfRange
  | writeAccepted hs w addr len hq hw inRange fits =>
    exact .writeAccepted (s := withTick s b) hs w addr len hq hw inRange fits
  | writeRejected hs w addr len hq hw outOfRange =>
    exact .writeRejected (s := withTick s b) hs w addr len hq hw outOfRange
  | writeOverPage hs w addr len hq hw inRange overPage =>
    exact .writeOverPage (s := withTick s b) hs w addr len hq hw inRange overPage
  | detach hs w x hq hw => exact .detach (s := withTick s b) hs w x hq hw
  | probeOk hs byte ha => exact .probeOk (s := withTick s b) hs byte ha
  | probeErr hs e ha => exact .probeErr (s := withTick s b) hs e ha
  | wrenOk hs ha => exact .wrenOk (s := withTick s b) hs ha
  | wrenErr hs e ha => exact .wrenErr (s := withTick s b) hs e ha
  | readOk hs rx ha => exact .readOk (s := withTick s b) hs rx ha
  | readErr hs e ha => exact .readErr (s := withTick s b) hs e ha
  | writeOk hs ha => exact .writeOk (s := withTick s b) hs ha
  | writeErr hs e ha => exact .writeErr (s := withTick s b) hs e ha
  | pollReady hs byte ha hb => exact .pollReady (s := withTick s b) hs byte ha hb
  | pollBusy hs byte ha hb left => exact .pollBusy (s := withTick s b) hs byte ha hb left
  | pollTimeout hs byte ha hb last =>
    rw [← timeout_withTick]
    exact .pollTimeout (s := withTick s b) hs byte ha hb last
  | pollErr hs e ha =>
    rw [← lostRaise_withTick]
    exact .pollErr (s := withTick s b) hs e ha
  | tickEnds waits | tickCounts waits => exact absurd waits hs
  | respond hs taken => exact .respond (s := withTick s b) hs taken

/-- R101: outside `S_POLL_WAIT` the tick makes no difference to a step, in reset too. -/
theorem step_withTick {s : State} (b : Bool) (hs : s.st ≠ .pollWait) : step (withTick s b) = step s := by
  obtain ⟨t, ht⟩ := everyStepAnswersNext s
  rw [ht]
  cases hr : s.inp.rst with
  | true =>
    have sameReset : (withTick s b).resetEvent = withTick s.resetEvent b := rfl
    rw [step_reset hr] at ht
    rw [step_reset (s := withTick s b) hr, sameReset, sample_withTick, ht]
  | false =>
    have back (v : State) (row : Row (withTick s b) v) : ∃ u, Row s u ∧ v = withTick u b := by
      refine ⟨withTick v s.inp.tick, row_withTick row s.inp.tick hs, ?_⟩
      have tick : b = v.inp.tick := (congrArg Inputs.tick row.inp_eq).symm
      rw [tick]
      rfl
    obtain ⟨u, v, rfl, rfl, hv⟩ := step_matched (R := fun u v => v = withTick u b) (t := withTick s b) hr hr rfl
      (fun u row => ⟨_, row_withTick row b hs, rfl⟩) back ht
    rw [hv, sample_withTick]

/-- Settles O31: the two rows of a tick, the wait without one, and no difference elsewhere. -/
theorem ticksCountTheWait : Obligations.TicksCountTheWait := by
  refine ⟨fun s hs hr ht hc => (Row.tickEnds hs ht hc).step_eq hr,
    fun s hs hr ht hc => (Row.tickCounts hs ht hc).step_eq hr, fun s hs hr ht => ?_, fun s b hs => step_withTick b hs⟩
  rw [step_waiting (.inl hs), idleStep_pollWait hr hs, ht]
  rfl

/-! ### The response -/

/-- R152: `S_DETACHED` after a detach and after an attach that failed, `S_IDLE` after everything else. -/
theorem afterResponse_eq (op : ReqOp) (res : ResultCode) :
    afterResponse op res =
      if op = .detach then .detached else if op = .attach ∧ res ≠ .ok then .detached else .idle := by
  cases op <;> cases res <;> rfl

/-- Settles O33: taken, the response's row, with the state after it spelled out; untaken, a wait. -/
theorem responseIsDelivered : Obligations.ResponseIsDelivered := by
  constructor
  · intro s hs hr taken
    rw [step_respond_taken hs hr taken, State.deliverResponse, afterResponse_eq, State.response]
  · intro s hs hr untaken
    rw [step_waiting (.inr hs), idleStep_respond hr hs, untaken]
    rfl

/-! ### Reset -/

/-- R201: a reset leaves the chip alone when no transaction is running. -/
theorem abandonedChip_resting {s : State} (h : s.st = .detached ∨ s.st = .idle ∨ s.st = .respond) :
    s.abandonedChip = s.chip := by
  unfold State.abandonedChip
  split
  · rfl
  · rcases h with h | h | h <;> rw [h]

/-- In `S_DETACHED` no output is valid and there is no handle. -/
theorem outputs_detached {s : State} (h : s.st = .detached) :
    s.rspValid = false ∧ s.btCallValid = false ∧ s.handleExists = false := by
  simp [State.rspValid, State.btCallValid, State.outstandingCall, State.handleExists, h]

/-- Settles O34: the reset event's fields, and that it comes before a look at the request port. -/
theorem resetEndsEverything : Obligations.ResetEndsEverything := by
  intro s hr
  constructor
  · have detached : s.resetEvent.sample.st = .detached := State.sample_st _
    obtain ⟨noResponse, noCall, noHandle⟩ := outputs_detached detached
    refine ⟨_, step_reset hr, detached, State.sample_busLog _, State.sample_diagLog _, State.sample_cfg _, noResponse,
      noCall, noHandle, fun resting => ?_⟩
    rw [State.sample_chip, State.resetEvent_chip, abandonedChip_resting resting]
  · intro w d
    have sameReset : (withRequest s w d).resetEvent = withRequest s.resetEvent w d := rfl
    have sameStep : step (withRequest s w d) = step s := by
      rw [step_reset hr, step_reset (s := withRequest s w d) hr, sameReset, sample_withRequest]
    exact sameStep

/-- R150: `S_DETACHED` is ready for an attach presented without reset, and for nothing else. -/
theorem reqReady_detached {s : State} (hs : s.st = .detached) :
    s.reqReady = true ↔ s.inp.rst = false ∧ ∃ w, s.inp.req = some w ∧ w.extractLsb' 48 2 = 0b00 := by
  cases hq : s.inp.req with
  | none => simp [State.reqReady, hq]
  | some w => simp [State.reqReady, hq, hs, accepts_iff, ofCode_eq_attach_iff]

/-- Settles O35: the reset state is `S_DETACHED`, with the source's attempts. -/
theorem resetStateHasNoHandle : Obligations.ResetStateHasNoHandle := by
  obtain ⟨noResponse, noCall, noHandle⟩ := outputs_detached (s := State.reset) rfl
  exact ⟨rfl, rfl, rfl, noResponse, noCall, noHandle, rfl, fun p =>
    reqReady_detached (s := { State.reset with inp := p }) rfl⟩

/-! ### Widths and ports -/

/-- Settles O59: the width holds `INTERVAL_TICKS`, and every width that does is as large. -/
theorem ivlWidthIsLeast : Obligations.IvlWidthIsLeast :=
  fun c => ⟨intervalTicks_lt c, fun _ => ivlW_le⟩

/-- The ports of a call with two transfers, of which the first sends `header` (R31, R63). -/
theorem ports_of_transceive {s : State} {header : List Byte} {second : Desc}
    (h : s.outstandingCall = some (.transceive [.tx header, second])) :
    s.btKind = some 1 ∧ s.btNdesc = some 2 ∧ s.btD0Dir = some 0 ∧ s.btD0N = some (BitVec.ofNat 32 header.length)
      ∧ s.btD1Dir = some second.dir ∧ s.btD1N = some second.countPort
      ∧ s.btTxBytes = some (header ++ second.txBytes) := by
  simp [State.btKind, State.btNdesc, State.btD0Dir, State.btD0N, State.btD1Dir, State.btD1N, State.btTxBytes,
    State.btDesc, h, Call.kind, Call.ndesc, Call.descs, Call.txBytes, Desc.dir, Desc.countPort, Desc.count,
    Desc.txBytes]

/-- The ports of a plain send have no second transfer (R31, R63). -/
theorem ports_of_send {s : State} {bytes : List Byte} (h : s.outstandingCall = some (.send bytes)) :
    s.btKind = some 0 ∧ s.btNdesc = some 1 ∧ s.btD0Dir = some 0 ∧ s.btD0N = some (BitVec.ofNat 32 bytes.length)
      ∧ s.btD1Dir = none ∧ s.btTxBytes = some bytes := by
  simp [State.btKind, State.btNdesc, State.btD0Dir, State.btD0N, State.btD1Dir, State.btTxBytes, State.btDesc, h,
    Call.kind, Call.ndesc, Call.descs, Call.txBytes, Desc.dir, Desc.countPort, Desc.count, Desc.txBytes]

/-- R153: a call is outstanding in five of the nine states. -/
theorem btCallValid_iff (s : State) :
    s.btCallValid = true ↔
      s.st = .wrWren ∨ s.st = .probe ∨ s.st = .pollRdsr ∨ s.st = .rdXfer ∨ s.st = .wrXfer := by
  unfold State.btCallValid State.outstandingCall
  cases s.st <;> simp

/-- Settles O60: the ports of the send and of the two-transfer calls, at the call of each state. -/
theorem callPortsShowTheCall : Obligations.CallPortsShowTheCall := by
  refine ⟨fun s hs => ?_, fun s hs => ?_, fun s hs => ?_, fun s hs hlen => ?_, btCallValid_iff⟩
  · exact ports_of_send (bytes := [0x06]) (by rw [State.outstandingCall, hs]; rfl)
  · have hc : s.outstandingCall = some rdsrCall := by rcases hs with hs | hs <;> rw [State.outstandingCall, hs]
    exact ports_of_transceive hc
  · have hc : s.outstandingCall = some (readCall s.addr s.len.toNat) := by rw [State.outstandingCall, hs]
    have count : (Desc.rx s.len.toNat).countPort = s.len := by simp [Desc.countPort, Desc.count]
    have ports := ports_of_transceive hc
    rw [count] at ports
    exact ports
  · have hc : s.outstandingCall = some (writeCall s.addr s.wbuf) := by rw [State.outstandingCall, hs]
    have count : (Desc.tx s.wbuf).countPort = s.len := by simp [Desc.countPort, Desc.count, hlen]
    have ports := ports_of_transceive hc
    rw [count] at ports
    exact ports

end Sys2Proof

/-! Runs over a script of input ports (41_status_poller.md, 43_read_transaction.md, 44_write_transaction.md): the lines of a
script one by one, `wait_ready`, and the transactions as big steps. -/

namespace Sys2Proof

open Sys2Proof.Machine Sys2Proof.Safety

/-! ### Lines of a script -/

/-- Over these lines of a script the machine gets from `s` to `v`: where a run from `v` ends, the run from `s` ends. -/
def Reaches (s : State) (is : List Inputs) (v : State) : Prop :=
  ∀ more w, EndsAs v more w → EndsAs s (is ++ more) w

theorem Reaches.refl (s : State) : Reaches s [] s := fun _ _ h => h

theorem Reaches.trans {s u v : State} {is js : List Inputs} (h : Reaches s is u) (h' : Reaches u js v) :
    Reaches s (is ++ js) v := by
  intro more w hw
  rw [List.append_assoc]
  exact h _ _ (h' _ _ hw)

/-- A run over the lines ends where they lead, but for the ports, the script and the draw counter. -/
theorem Reaches.endsAs {s v : State} {is : List Inputs} (h : Reaches s is v) : EndsAs s is v := by
  have run := h [] v (endsAs_nil v)
  rwa [List.append_nil] at run

/-- One line takes the row that its ports enable. -/
theorem reaches_row {s v : State} {x : Inputs} (hr : x.rst = false)
    (row : ∀ is, Row { s with inp := x, script := is } { v with inp := x, script := is }) : Reaches s [x] v :=
  fun more _ hw => endsAs_cons ((row more).step_eq hr) rfl (endsAs_ports hw)

theorem reaches_taking {s : State} (hs : s.st = .respond) : Reaches s [taking] s.deliverResponse :=
  fun _ _ => endsAs_taking hs

/-- The ticks of one whole wait (R101). -/
theorem reaches_ticks {s : State} (hs : s.st = .pollWait) :
    Reaches s (List.replicate (s.ivlCnt + 1) ticking) { s with st := .pollRdsr, ivlCnt := 0 } :=
  fun _ _ => endsAs_ticks hs

/-- Fewer ticks than the wait lasts count down. -/
theorem reaches_someTicks {s : State} {k : Nat} (hs : s.st = .pollWait) (hk : k ≤ s.ivlCnt) :
    Reaches s (List.replicate k ticking) { s with ivlCnt := s.ivlCnt - k } := by
  induction k with
  | zero => exact Reaches.refl s
  | succ k ih =>
    rw [List.replicate_succ']
    refine (ih (Nat.le_of_succ_le hk)).trans (reaches_row rfl fun is => ?_)
    exact .tickCounts (s := { s with inp := ticking, script := is, ivlCnt := s.ivlCnt - k }) hs rfl
      (Nat.sub_ne_zero_of_lt hk)

/-- Settles O32: `k` ticks count down `k`, and one more than the count ends the wait. -/
theorem waitLastsItsTicks : Obligations.WaitLastsItsTicks := by
  intro s hs
  constructor
  · intro k hk
    obtain ⟨t, run, ht⟩ := (reaches_someTicks hs hk).endsAs
    exact ⟨t, run, by rw [ht]; exact hs, by rw [ht]⟩
  · obtain ⟨t, run, ht⟩ := (reaches_ticks hs).endsAs
    exact ⟨t, run, by rw [ht], by rw [ht], by rw [ht]⟩

/-! ### Requests -/

section
variable {s : State} {addr : Addr} {len : Len} (d : WData) (hs : s.st = .idle)
include hs

theorem reaches_readAccepted (inRange : addr.toNat + len.toNat ≤ 262144) :
    Reaches s [requesting (requestWord .read addr len) d] { s with op := .read, addr := addr, len := len, st := .rdXfer } :=
  reaches_row rfl fun is => .readAccepted (s := { s with inp := requesting (requestWord .read addr len) d, script := is })
    hs _ _ _ rfl (decodeRequest_read addr len) inRange

theorem reaches_readRejected (outOfRange : 262144 < addr.toNat + len.toNat) :
    Reaches s [requesting (requestWord .read addr len) d]
      ((({ s with op := .read } : State).emit .oobRead 0x00).raise .invalidArgument) :=
  reaches_row rfl fun is => .readRejected (s := { s with inp := requesting (requestWord .read addr len) d, script := is })
    hs _ _ _ rfl (decodeRequest_read addr len) outOfRange

theorem reaches_writeAccepted (inRange : addr.toNat + len.toNat ≤ 262144) (fits : len.toNat ≤ 256) :
    Reaches s [requesting (requestWord .write addr len) d]
      { s with op := .write, addr := addr, len := len, wbuf := captureData d len.toNat, st := .wrWren } :=
  reaches_row rfl fun is => .writeAccepted (s := { s with inp := requesting (requestWord .write addr len) d, script := is })
    hs _ _ _ rfl (decodeRequest_write addr len) inRange fits

theorem reaches_writeRejected (outOfRange : 262144 < addr.toNat + len.toNat) :
    Reaches s [requesting (requestWord .write addr len) d]
      ((({ s with op := .write } : State).emit .oobWrite 0x00).raise .invalidArgument) :=
  reaches_row rfl fun is => .writeRejected (s := { s with inp := requesting (requestWord .write addr len) d, script := is })
    hs _ _ _ rfl (decodeRequest_write addr len) outOfRange

theorem reaches_writeOverPage (inRange : addr.toNat + len.toNat ≤ 262144) (overPage : 256 < len.toNat) :
    Reaches s [requesting (requestWord .write addr len) d] (({ s with op := .write } : State).raise .invalidArgument) :=
  reaches_row rfl fun is => .writeOverPage (s := { s with inp := requesting (requestWord .write addr len) d, script := is })
    hs _ _ _ rfl (decodeRequest_write addr len) inRange overPage

end

/-! ### Answers -/

/-- `s` with an answer on its port, as a line of a script puts it. -/
def answered (s : State) (a : Answer) (is : List Inputs) : State := { s with inp := answering a, script := is }

/-- A line's error is the answer to any call. -/
theorem answerTo_answered_err (s : State) (e : TErr) (is : List Inputs) (c : Call) :
    (answered s (.err e) is).answerTo c = some (.err e) :=
  answerTo_err c rfl

/-- With the oracle a line's bytes are the answer, when their number is right. -/
theorem answerTo_answered_oracle {s : State} {rx : List Byte} {c : Call} (ho : s.cfg.backend = .oracle)
    (hlen : rx.length = c.rxCount) (is : List Inputs) : (answered s (.ok rx) is).answerTo c = some (.ok rx) :=
  answerTo_oracle (s := answered s (.ok rx) is) ho rfl hlen

section
variable {s : State}

theorem reaches_readOk {rx : List Byte} (hs : s.st = .rdXfer) (ho : s.cfg.backend = .oracle)
    (hlen : rx.length = s.len.toNat) :
    Reaches s [answering (.ok rx)] ({ s.logCall (readCall s.addr s.len.toNat) (.ok rx) with rbuf := rx } : State).complete :=
  reaches_row rfl fun is => .readOk (s := answered s (.ok rx) is) hs rx
    (answerTo_answered_oracle ho (hlen.trans (readCall_rxCount _ _).symm) is)

theorem reaches_readErr (e : TErr) (hs : s.st = .rdXfer) :
    Reaches s [answering (.err e)] (({ s.logCall (readCall s.addr s.len.toNat) (.err e) with
      rbuf := anyBytes (Config.anyReadByte (s.draws + 1)) s.len.toNat } : State).raise (.transportError e)) :=
  reaches_row rfl fun is => .readErr (s := answered s (.err e) is) hs e (answerTo_answered_err s e is _)

/-- Whoever stands behind the transport, a WREN and a WRITE answered `Ok` go on. -/
theorem reaches_wrenOk (hs : s.st = .wrWren) :
    Reaches s [answering (.ok [])] { s.logCall wrenCall (.ok []) with st := .wrXfer } :=
  reaches_row rfl fun is => .wrenOk (s := answered s (.ok []) is) hs (answerTo_wren_ok rfl)

theorem reaches_wrenErr (e : TErr) (hs : s.st = .wrWren) :
    Reaches s [answering (.err e)] ((s.logCall wrenCall (.err e)).raise (.transportError e)) :=
  reaches_row rfl fun is => .wrenErr (s := answered s (.err e) is) hs e (answerTo_answered_err s e is _)

theorem reaches_writeOk (hs : s.st = .wrXfer) :
    Reaches s [answering (.ok [])]
      { s.logCall (writeCall s.addr s.wbuf) (.ok []) with attempt := 0, st := .pollRdsr } :=
  reaches_row rfl fun is => .writeOk (s := answered s (.ok []) is) hs
    (answerTo_ok_of_receives_nothing rfl (writeCall_rxCount _ _) (Chip.reply_length_write _ _ _ _))

theorem reaches_writeErr (e : TErr) (hs : s.st = .wrXfer) :
    Reaches s [answering (.err e)] ((s.logCall (writeCall s.addr s.wbuf) (.err e)).raise (.transportError e)) :=
  reaches_row rfl fun is => .writeErr (s := answered s (.err e) is) hs e (answerTo_answered_err s e is _)

end

/-! ### The status reads of `wait_ready` -/

section
variable {s : State} {a : Answer} {b : Byte} (hs : s.st = .pollRdsr)
include hs

/-- A busy read with attempts left, and the whole wait after it (R95, R101). -/
theorem reaches_busyRound (ha : ∀ is, (answered s a is).answerTo rdsrCall = some (.ok [b])) (hb : busy b = true)
    (left : s.attempt.toNat + 1 < s.cfg.maxAttempts) :
    Reaches s (answering a :: List.replicate (s.cfg.intervalTicks + 1) ticking)
      { s.logCall rdsrCall (.ok [b]) with status := b, attempt := s.attempt + 1, ivlCnt := 0 } := by
  have read : Reaches s [answering a] { s.logCall rdsrCall (.ok [b]) with
      status := b, attempt := s.attempt + 1, ivlCnt := s.cfg.intervalTicks, st := .pollWait } :=
    reaches_row rfl fun is => .pollBusy (s := answered s a is) hs b (ha is) hb left
  have whole := read.trans (reaches_ticks rfl)
  simpa [State.logCall, hs] using whole

/-- A ready read ends the poll (R94). -/
theorem reaches_pollReady (ha : ∀ is, (answered s a is).answerTo rdsrCall = some (.ok [b])) (hb : busy b = false) :
    Reaches s [answering a] ({ s.logCall rdsrCall (.ok [b]) with status := b } : State).complete :=
  reaches_row rfl fun is => .pollReady (s := answered s a is) hs b (ha is) hb

/-- With the oracle, a busy read on the last attempt is a timeout (R96). -/
theorem reaches_pollTimeout (ho : s.cfg.backend = .oracle) (hb : busy b = true)
    (last : s.cfg.maxAttempts ≤ s.attempt.toNat + 1) :
    Reaches s [answering (.ok [b])]
      ((({ s.logCall rdsrCall (.ok [b]) with status := b } : State).emit .timeout 0x00).raise .timeout) := by
  refine reaches_row rfl fun is => ?_
  have row := Row.pollTimeout (s := answered s (.ok [b]) is) hs b (answerTo_answered_oracle ho rfl is) hb last
  rw [loseWrite_oracle (by exact ho)] at row
  exact row

/-- With the oracle, an error ends the poll (R93). -/
theorem reaches_pollErr (ho : s.cfg.backend = .oracle) (e : TErr) :
    Reaches s [answering (.err e)] ((s.logCall rdsrCall (.err e)).raise (.transportError e)) := by
  refine reaches_row rfl fun is => ?_
  have row := Row.pollErr (s := answered s (.err e) is) hs e (answerTo_answered_err s e is _)
  rw [loseWrite_oracle (by exact ho)] at row
  exact row

end

/-- The lines of busy reads, each with the whole wait after it. -/
def roundLines (ticks : Nat) (as : List Answer) : List Inputs :=
  as.flatMap fun a => answering a :: List.replicate (ticks + 1) ticking

/-- A poll's script is its rounds and the line of its last read. -/
theorem pollScript_concat (ticks : Nat) (as : List Answer) (a : Answer) :
    pollScript ticks (as ++ [a]) = roundLines ticks as ++ [answering a] := by
  induction as with
  | nil => rfl
  | cons x as ih =>
    have nonempty : ∃ y rest, as ++ [a] = y :: rest := List.exists_cons_of_ne_nil (by simp)
    obtain ⟨y, rest, split⟩ := nonempty
    rw [List.cons_append, split, pollScript, ← split, ih]
    simp [roundLines]

/-- Busy reads below the bound, each with its wait: they are logged and counted, and of the other fields only `status`, the
timer, the chip and the draw counter move. -/
theorem reaches_busyRounds {s : State} {bs : List Byte} (ho : s.cfg.backend = .oracle) (wf : s.cfg.wf = true)
    (hs : s.st = .pollRdsr) (left : s.attempt.toNat + bs.length < s.cfg.maxAttempts) (allBusy : ∀ b ∈ bs, busy b = true) :
    ∃ u : State, Reaches s (roundLines s.cfg.intervalTicks (bs.map fun b => .ok [b])) u
      ∧ u.attempt.toNat = s.attempt.toNat + bs.length
      ∧ u = { s with
        busLog := s.busLog ++ bs.map rdsrEntry, attempt := u.attempt, status := u.status, ivlCnt := u.ivlCnt
        chip := u.chip, draws := u.draws } := by
  induction bs generalizing s with
  | nil => exact ⟨s, Reaches.refl s, rfl, by simp⟩
  | cons b bs ih =>
    rw [List.length_cons] at left
    have counted := attempt_succ_toNat wf (s := s) (by omega)
    have round := reaches_busyRound hs (fun is => answerTo_answered_oracle (rx := [b]) ho rfl is)
      (allBusy b List.mem_cons_self) (by omega)
    obtain ⟨u, rounds, attempts, frame⟩ := ih
      (s := { s.logCall rdsrCall (.ok [b]) with status := b, attempt := s.attempt + 1, ivlCnt := 0 }) ho wf hs
      (by simp only [counted, State.logCall_cfg]; omega) (fun x hx => allBusy x (List.mem_cons_of_mem b hx))
    refine ⟨u, round.trans rounds, ?_, ?_⟩
    · rw [attempts]
      simp only [counted, List.length_cons]
      omega
    · rw [frame]
      simp [State.logCall, rdsrEntry]

/-! ### `wait_ready` as a whole -/

/-- How a poll from `s` ends in `v`: its result, and what it adds to the logs. -/
structure PollEnds (s v : State) (res : ResultCode) (calls : List BusEntry) (diags : List DiagEvent) : Prop where
  st : v.st = .respond
  res : v.res = res
  op : v.op = s.op
  busLog : v.busLog = s.busLog ++ calls
  diagLog : v.diagLog = s.diagLog ++ diags
  rspLog : v.rspLog = s.rspLog
  cfg : v.cfg = s.cfg

section
variable {s : State} {bs : List Byte} (ho : s.cfg.backend = .oracle) (wf : s.cfg.wf = true) (hs : s.st = .pollRdsr)
  (fresh : s.attempt.toNat = 0) (allBusy : ∀ b ∈ bs, busy b = true)
include ho wf hs fresh allBusy

/-- R98: `MAX_ATTEMPTS` busy reads are all rounds but the last, and the last is the timeout. -/
theorem waitReady_timesOut (full : bs.length = s.cfg.maxAttempts) :
    ∃ v, Reaches s (pollScript s.cfg.intervalTicks (bs.map fun b => .ok [b])) v
      ∧ PollEnds s v .timeout (bs.map rdsrEntry) [⟨.timeout, 0x00⟩] := by
  have positive := ((wf_iff s.cfg).mp wf).1
  rcases List.eq_nil_or_concat bs with rfl | ⟨front, last, rfl⟩
  · rw [List.length_nil] at full
    omega
  · rw [List.concat_eq_append] at full allBusy ⊢
    rw [List.length_append, List.length_singleton] at full
    obtain ⟨u, rounds, attempts, frame⟩ := reaches_busyRounds (bs := front) ho wf hs
      (by omega) fun b hb => allBusy b (List.mem_append_left _ hb)
    rw [fresh, Nat.zero_add] at attempts
    have cfg : u.cfg = s.cfg := by rw [frame]
    have timeout := reaches_pollTimeout (s := u) (b := last) (by rw [frame]; exact hs) (by rw [cfg]; exact ho)
      (allBusy last (List.mem_append_right _ (List.mem_singleton_self last))) (by rw [cfg, attempts]; omega)
    rw [List.map_append, List.map_singleton, pollScript_concat]
    exact ⟨_, rounds.trans timeout,
      { st := rfl, res := rfl, op := by rw [frame]; rfl, cfg := cfg
        busLog := by rw [frame]; simp [rdsrEntry], diagLog := by rw [frame]; rfl, rspLog := by rw [frame]; rfl }⟩

/-- R98: fewer busy reads are rounds, and a ready read ends in success. -/
theorem waitReady_succeeds {b : Byte} (left : bs.length < s.cfg.maxAttempts) (hb : busy b = false) :
    ∃ v, Reaches s (pollScript s.cfg.intervalTicks ((bs ++ [b]).map fun x => .ok [x])) v
      ∧ PollEnds s v .ok ((bs ++ [b]).map rdsrEntry) [] ∧ v.attempt.toNat = bs.length ∧ v.status = b := by
  obtain ⟨u, rounds, attempts, frame⟩ := reaches_busyRounds (bs := bs) ho wf hs
    (by omega) allBusy
  rw [fresh, Nat.zero_add] at attempts
  have cfg : u.cfg = s.cfg := by rw [frame]
  have ready := reaches_pollReady (s := u) (by rw [frame]; exact hs)
    (fun is => answerTo_answered_oracle (rx := [b]) (by rw [cfg]; exact ho) rfl is) hb
  rw [List.map_append, List.map_singleton, pollScript_concat]
  refine ⟨_, rounds.trans ready, ?_, attempts, rfl⟩
  exact
    { st := rfl, res := rfl, op := by rw [frame]; rfl, cfg := cfg
      busLog := by rw [frame]; simp [rdsrEntry], diagLog := by rw [frame]; simp, rspLog := by rw [frame]; rfl }

/-- R98: fewer busy reads are rounds, and an error ends in that error. -/
theorem waitReady_aborts (e : TErr) (left : bs.length < s.cfg.maxAttempts) :
    ∃ v, Reaches s (pollScript s.cfg.intervalTicks ((bs.map fun x => .ok [x]) ++ [.err e])) v
      ∧ PollEnds s v .transportError (bs.map rdsrEntry ++ [⟨rdsrCall, .err e⟩]) [] ∧ v.terr = e := by
  obtain ⟨u, rounds, attempts, frame⟩ := reaches_busyRounds (bs := bs) ho wf hs
    (by omega) allBusy
  have cfg : u.cfg = s.cfg := by rw [frame]
  have failed := reaches_pollErr (s := u) (by rw [frame]; exact hs) (by rw [cfg]; exact ho) e
  rw [pollScript_concat]
  refine ⟨_, rounds.trans failed, ?_, rfl⟩
  exact
    { st := rfl, res := rfl, op := by rw [frame]; rfl, cfg := cfg
      busLog := by rw [frame]; simp, diagLog := by rw [frame]; simp, rspLog := by rw [frame]; rfl }

end

/-- Settles O48: the run over a poll's script that times out. -/
theorem waitReadyTimesOut : Obligations.WaitReadyTimesOut := by
  intro s bs wf ho hs fresh full allBusy
  obtain ⟨v, poll, ends⟩ := waitReady_timesOut ho wf hs (congrArg BitVec.toNat fresh) allBusy full
  obtain ⟨t, run, ht⟩ := poll.endsAs
  refine ⟨t, run, ?_⟩
  rw [ht]
  exact ⟨ends.st, ends.res, ends.busLog, ends.diagLog⟩

/-- Settles O49: the run over a poll's script that ends ready. -/
theorem waitReadySucceeds : Obligations.WaitReadySucceeds := by
  intro s bs b wf ho hs fresh left allBusy hb
  obtain ⟨v, poll, ends, attempts, status⟩ :=
    waitReady_succeeds ho wf hs (congrArg BitVec.toNat fresh) allBusy left hb
  obtain ⟨t, run, ht⟩ := poll.endsAs
  refine ⟨t, run, ?_⟩
  rw [ht]
  exact ⟨ends.st, ends.res, attempts, status, ends.busLog, ends.diagLog.trans (List.append_nil _)⟩

/-- Settles O50: the run over a poll's script that ends in an error. -/
theorem waitReadyAborts : Obligations.WaitReadyAborts := by
  intro s bs e wf ho hs fresh left allBusy
  obtain ⟨v, poll, ends, terr⟩ := waitReady_aborts ho wf hs (congrArg BitVec.toNat fresh) allBusy e left
  obtain ⟨t, run, ht⟩ := poll.endsAs
  refine ⟨t, run, ?_⟩
  rw [ht, List.append_assoc]
  exact ⟨ends.st, ends.res, terr, ends.busLog, ends.diagLog.trans (List.append_nil _)⟩

/-! ### Transactions -/

/-- A script whose lines lead to `v` runs to what `v` shows. -/
theorem runsTo_of_reaches {s v : State} {is : List Inputs} {calls : List BusEntry} {diags : List DiagEvent}
    {rsps : List Response} (h : Reaches s is v) (busLog : v.busLog = s.busLog ++ calls)
    (diagLog : v.diagLog = s.diagLog ++ diags) (rspLog : v.rspLog = s.rspLog ++ rsps) (cfg : v.cfg = s.cfg) :
    RunsTo s is v.st calls diags rsps := by
  obtain ⟨t, run, ht⟩ := h.endsAs
  refine ⟨t, run, ?_⟩
  rw [ht]
  exact ⟨rfl, busLog, diagLog, rspLog, cfg⟩

/-- Settles O51: a rejected read, and an accepted one with either answer, each with its response taken. -/
theorem readTransaction : Obligations.ReadTransaction := by
  intro s addr len d hs ho
  refine ⟨fun outOfRange => ?_, fun rx inRange hlen => ?_, fun e inRange => ?_⟩
  · have rejected := (reaches_readRejected d hs outOfRange).trans (reaches_taking rfl)
    exact runsTo_of_reaches rejected (List.append_nil _).symm rfl rfl rfl
  · have received := ((reaches_readAccepted d hs inRange).trans (reaches_readOk (rx := rx) rfl ho hlen)).trans
      (reaches_taking rfl)
    exact runsTo_of_reaches received rfl (List.append_nil _).symm rfl rfl
  · have failed := ((reaches_readAccepted d hs inRange).trans (reaches_readErr e rfl)).trans (reaches_taking rfl)
    exact runsTo_of_reaches failed rfl (List.append_nil _).symm rfl rfl

/-- Settles O52: the two rejections, and the two errors before the poll, each with its response taken. -/
theorem writeTransactionEndsEarly : Obligations.WriteTransactionEndsEarly := by
  intro s addr len d hs ho
  refine ⟨fun outOfRange => ?_, fun inRange overPage => ?_, fun e inRange fits => ?_, fun e inRange fits => ?_⟩
  · have rejected := (reaches_writeRejected d hs outOfRange).trans (reaches_taking rfl)
    exact runsTo_of_reaches rejected (List.append_nil _).symm rfl rfl rfl
  · have rejected := (reaches_writeOverPage d hs inRange overPage).trans (reaches_taking rfl)
    exact runsTo_of_reaches rejected (List.append_nil _).symm (List.append_nil _).symm rfl rfl
  · have failed := ((reaches_writeAccepted d hs inRange fits).trans (reaches_wrenErr e rfl)).trans (reaches_taking rfl)
    exact runsTo_of_reaches failed rfl (List.append_nil _).symm rfl rfl
  · have failed := (((reaches_writeAccepted d hs inRange fits).trans (reaches_wrenOk rfl)).trans
      (reaches_writeErr e rfl)).trans (reaches_taking rfl)
    exact runsTo_of_reaches failed (List.append_assoc _ _ _) (List.append_nil _).symm rfl rfl

/-- The entry of a write's poll: WREN and WRITE are in the log, and the chip behind the transport has had both. -/
theorem reaches_pollEntry {s : State} {addr : Addr} {len : Len} (d : WData) (hs : s.st = .idle)
    (inRange : addr.toNat + len.toNat ≤ 262144) (fits : len.toNat ≤ 256) :
    ∃ u : State,
      Reaches s [requesting (requestWord .write addr len) d, answering (.ok []), answering (.ok [])] u
      ∧ u = { s with
        op := .write, addr := addr, len := len, wbuf := captureData d len.toNat, attempt := 0, st := .pollRdsr
        busLog := s.busLog ++ [wrenEntry, writeEntry addr (captureData d len.toNat)]
        chip := u.chip, draws := u.draws }
      ∧ (s.cfg.backend = .chip → u.chip = (s.chip.deliver s.cfg.busyReads s.draws wrenCall).deliver s.cfg.busyReads
          (s.draws + 1) (writeCall addr (captureData d len.toNat))) := by
  refine ⟨_, ((reaches_writeAccepted d hs inRange fits).trans (reaches_wrenOk rfl)).trans (reaches_writeOk rfl), ?_, ?_⟩
  · simp [State.logCall, wrenEntry, writeEntry]
  · intro chip
    simp [State.logCall, State.chipAfter, chip]

/-- A write whose poll has ended, with its response taken. -/
theorem runsTo_of_pollEnds {s u v : State} {lines poll : List Inputs} {addr : Addr} {len : Len} {data : List Byte}
    {res : ResultCode} {calls : List BusEntry} {diags : List DiagEvent} (entry : Reaches s lines u)
    (frame : u = { s with
      op := .write, addr := addr, len := len, wbuf := data, attempt := 0, st := .pollRdsr
      busLog := s.busLog ++ [wrenEntry, writeEntry addr data], chip := u.chip, draws := u.draws })
    (polled : Reaches u poll v) (ends : PollEnds u v res calls diags) :
    RunsTo s (lines ++ poll ++ [taking]) .idle ([wrenEntry, writeEntry addr data] ++ calls) diags
      [⟨.write, res, if res = .transportError then some v.terr else none, none⟩] := by
  have writing : v.op = .write := by rw [ends.op, frame]
  have idle : v.deliverResponse.st = .idle := by rw [State.deliverResponse_st, writing]; rfl
  have response : v.response = ⟨.write, res, if res = .transportError then some v.terr else none, none⟩ := by
    simp [State.response, writing, ends.res]
  rw [← idle]
  refine runsTo_of_reaches ((entry.trans polled).trans (reaches_taking ends.st)) ?_ ?_ ?_ ?_
  · rw [State.deliverResponse_busLog, ends.busLog, frame, List.append_assoc]
  · rw [State.deliverResponse_diagLog, ends.diagLog, frame]
  · rw [State.deliverResponse_rspLog, ends.rspLog, response, frame]
  · rw [State.deliverResponse_cfg, ends.cfg, frame]

/-- Settles O53: the entry of the poll, the three ends of `wait_ready` from there, and the response taken. -/
theorem writeTransactionPolls : Obligations.WriteTransactionPolls := by
  intro s addr len d bs hs ho wf inRange fits allBusy
  obtain ⟨u, entry, frame, -⟩ := reaches_pollEntry d hs inRange fits
  have cfg : u.cfg = s.cfg := by rw [frame]
  have st : u.st = .pollRdsr := by rw [frame]
  have fresh : u.attempt.toNat = 0 := by rw [frame]; rfl
  rw [← cfg] at ho wf ⊢
  refine ⟨fun e left => ?_, fun b left hb => ?_, fun full => ?_⟩
  · obtain ⟨v, polled, ends, terr⟩ := waitReady_aborts ho wf st fresh allBusy e left
    have run := runsTo_of_pollEnds entry frame polled ends
    rwa [if_pos rfl, terr, ← List.append_assoc] at run
  · obtain ⟨v, polled, ends, -⟩ := waitReady_succeeds ho wf st fresh allBusy left hb
    exact runsTo_of_pollEnds entry frame polled ends
  · obtain ⟨v, polled, ends⟩ := waitReady_timesOut ho wf st fresh allBusy full
    exact runsTo_of_pollEnds entry frame polled ends

end Sys2Proof

/-! The chip behind the transport (20_memory.md section 6, 95_test_vectors.md section 4; the model's choice, logs 11 to 14):
what each of the four calls does to it, what of the array an instruction can touch, and the source's round trip. -/

namespace Sys2Proof

open Sys2Proof.Machine Sys2Proof.Safety

/-! ### The array under each call -/

section
variable (s : State) (ans : Answer)

/-- WREN and RDSR leave the array alone, however they end. -/
theorem chipAfter_wren_mem : (s.chipAfter wrenCall ans).mem = s.chip.mem := by
  unfold State.chipAfter
  split
  · rfl
  · rw [Chip.deliver, wrenCall_chipOp]
    dsimp only
    split <;> rfl
  · rfl

theorem chipAfter_rdsr_mem : (s.chipAfter rdsrCall ans).mem = s.chip.mem := by
  unfold State.chipAfter
  split <;> rfl

/-- A READ, delivered or failed, leaves the chip as `afterReadArray` does; the oracle leaves it as it is. -/
theorem chipAfter_read (a : Addr) (n : Nat) :
    s.chipAfter (readCall a n) ans = s.chip ∨ s.chipAfter (readCall a n) ans = s.chip.afterReadArray s.draws a.toNat n := by
  unfold State.chipAfter
  split
  · exact .inl rfl
  · exact .inr (by rw [Chip.deliver, readCall_chipOp])
  · exact .inr (by rw [Chip.fail, readCall_chipOp])

end

/-- The bytes of a message lie in the pages it touches. -/
theorem pageOf_mem_touchedPages {a n x : Nat} (low : a ≤ x) (high : x < a + n) : pageOf x ∈ touchedPages a n := by
  have nonempty : n ≠ 0 := by omega
  rw [touchedPages, if_neg nonempty, List.mem_append, mem_pagesBetween]
  exact .inl ⟨Nat.div_le_div_right low, Nat.div_le_div_right (by omega)⟩

/-- Bytes written leave every page they do not touch alone. -/
theorem read_writeBytes_otherPage {m : List Host.Cell} {a x : Nat} {d : List Byte}
    (h : pageOf x ∉ touchedPages a d.length) : Memory.read (Memory.writeBytes m a d) x = Memory.read m x := by
  refine Memory.read_writeBytes_outside m d ?_
  by_contra inside
  exact h (pageOf_mem_touchedPages (by omega) (by omega))

/-- A WRITE, delivered or failed, leaves every page it does not touch alone. -/
theorem chipAfter_write_read (s : State) (ans : Answer) {a : Addr} {d : List Byte} {x : Nat}
    (h : pageOf x ∉ touchedPages a.toNat d.length) :
    Memory.read (s.chipAfter (writeCall a d) ans).mem x = Memory.read s.chip.mem x := by
  unfold State.chipAfter
  split
  · rfl
  · rw [Chip.deliver, writeCall_chipOp]
    dsimp only
    split
    · exact read_writeBytes_otherPage h
    · exact losePages_read_other h
  · rw [Chip.fail, writeCall_chipOp]
    exact losePages_read_other h

/-- A lost write leaves every page that `addr` and `len` do not touch alone. -/
theorem loseWrite_read {s : State} {x : Nat} (h : pageOf x ∉ touchedPages s.addr.toNat s.len.toNat) :
    Memory.read s.loseWrite.chip.mem x = Memory.read s.chip.mem x := by
  unfold State.loseWrite
  split
  · rfl
  · exact losePages_read_other h

/-! ### The array under each rule -/

@[simp] theorem afterWren_chip (s : State) (a : Answer) : (afterWren s a).chip = s.chip := by
  cases a <;> rfl

@[simp] theorem afterProbe_chip (s : State) (a : Answer) : (afterProbe s a).chip = s.chip := by
  cases a <;> rfl

@[simp] theorem afterRead_chip (s : State) (a : Answer) : (afterRead s a).chip = s.chip := by
  cases a <;> rfl

@[simp] theorem afterWrite_chip (s : State) (a : Answer) : (afterWrite s a).chip = s.chip := by
  cases a <;> rfl

@[simp] theorem beginRead_chip (addr : Addr) (len : Len) (s : State) : (beginRead addr len s).chip = s.chip := by
  unfold beginRead
  split <;> rfl

@[simp] theorem beginWrite_chip (addr : Addr) (len : Len) (s : State) : (beginWrite addr len s).chip = s.chip := by
  unfold beginWrite
  split
  · split <;> rfl
  · rfl

/-- R178: a poll loses the write only where it ends without `OK`. -/
theorem afterPoll_chip_cases (s : State) (a : Answer) :
    (afterPoll s a).chip = s.chip
      ∨ ((afterPoll s a).st = .respond ∧ (afterPoll s a).res ≠ .ok
        ∧ ∃ b, (afterPoll s a).chip = ({ s with status := b } : State).loseWrite.chip) := by
  cases a with
  | err e => exact .inr ⟨State.raise_st _ _, nofun, s.status, State.raise_chip _ _⟩
  | ok rx =>
    rw [afterPoll]
    split_ifs
    · exact .inl rfl
    · exact .inr ⟨rfl, nofun, _, rfl⟩
    · exact .inl rfl

/-- Acceptance leaves the chip alone. -/
theorem acceptRequest_chip {s t : State} {r : ReqOp} {f : State → State} (hf : ∀ u, (f u).chip = u.chip)
    (h : acceptRequest s r f = .next t) : t.chip = s.chip := by
  rcases acceptRequest_cases h with ⟨-, rfl⟩ | ⟨-, rfl⟩
  · exact hf _
  · rfl

/-- A command that is answered does to the chip what its call does, when the rule of the answer leaves the chip alone. -/
theorem busStep_chip {s t : State} {c : Call} {k : State → Answer → State} (hk : ∀ u a, (k u a).chip = u.chip)
    (h : busStep s c k = .next t) : t.chip = s.chip ∨ ∃ a, t.chip = s.chipAfter c a := by
  rcases busStep_cases h with ⟨-, rfl⟩ | ⟨a, -, rfl⟩
  · exact .inl rfl
  · exact .inr ⟨a, hk _ _⟩

/-- A WREN leaves the array alone. -/
theorem exec_wren_mem {s t : State} (h : exec .wren s = .next t) : t.chip.mem = s.chip.mem := by
  rw [exec, execWren] at h
  split at h
  · rcases busStep_chip afterWren_chip h with kept | ⟨a, moved⟩
    · rw [kept]
    · rw [moved, chipAfter_wren_mem]
  · cases h; rfl

/-- A status read outside the poll leaves the array alone. -/
theorem exec_rdsr_mem {s t : State} (h : exec .rdsr s = .next t) (notPoll : s.st ≠ .pollRdsr) :
    t.chip.mem = s.chip.mem := by
  rw [exec, execRdsr, if_neg notPoll] at h
  split at h
  · rcases busStep_chip afterProbe_chip h with kept | ⟨a, moved⟩
    · rw [kept]
    · rw [moved, chipAfter_rdsr_mem]
  · cases h; rfl

/-- The status read of the poll leaves the array alone unless it ends the write without `OK`, and then every page that the
write does not touch. -/
theorem exec_rdsr_poll_mem {s t : State} (h : exec .rdsr s = .next t) (hs : s.st = .pollRdsr) :
    t.chip.mem = s.chip.mem
      ∨ ((t.st = .respond ∧ t.res ≠ .ok) ∧ ∀ x, pageOf x ∉ touchedPages s.addr.toNat s.len.toNat →
        Memory.read t.chip.mem x = Memory.read s.chip.mem x) := by
  have notProbe : s.st ≠ .probe := by simp [hs]
  rw [exec, execRdsr, if_neg notProbe, if_pos hs] at h
  rcases busStep_cases h with ⟨-, rfl⟩ | ⟨a, -, rfl⟩
  · exact .inl rfl
  · rcases afterPoll_chip_cases (s.logCall rdsrCall a) a with kept | ⟨ends, notOk, b, lost⟩
    · left
      rw [kept, State.logCall_chip, chipAfter_rdsr_mem]
    · refine .inr ⟨⟨ends, notOk⟩, fun x hx => ?_⟩
      rw [lost, loseWrite_read (s := { s.logCall rdsrCall a with status := b }) hx]
      exact congrArg (Memory.read · x) (chipAfter_rdsr_mem s a)

/-- A READ leaves a ready chip's array alone, and of a busy chip every page that it does not address. -/
theorem exec_read_mem {s t : State} {a : Addr} (h : exec (.read a) s = .next t) :
    (s.chip.busy = 0 → t.chip.mem = s.chip.mem)
      ∧ ∀ x, pageOf x ∉ touchedPages s.addr.toNat s.len.toNat → Memory.read t.chip.mem x = Memory.read s.chip.mem x := by
  have kept (h : t.chip = s.chip) :
      (s.chip.busy = 0 → t.chip.mem = s.chip.mem) ∧
        ∀ x, pageOf x ∉ touchedPages s.addr.toNat s.len.toNat → Memory.read t.chip.mem x = Memory.read s.chip.mem x := by
    rw [h]
    exact ⟨fun _ => rfl, fun _ _ => rfl⟩
  rw [exec, execRead] at h
  split at h
  · obtain ⟨-, rfl⟩ := ‹_ ∧ _›
    rcases busStep_chip afterRead_chip h with same | ⟨ans, moved⟩
    · exact kept same
    · rcases chipAfter_read s ans s.addr s.len.toNat with same | touched
      · exact kept (moved.trans same)
      · rw [moved, touched]
        exact ⟨fun ready => congrArg Chip.mem (Chip.afterReadArray_ready ready),
          fun x hx => Chip.afterReadArray_read_other hx⟩
  · cases h; exact kept rfl

/-- A WRITE leaves every page that it does not address alone. -/
theorem exec_write_mem {s t : State} {a : Addr} {x : Nat} (h : exec (.write a) s = .next t)
    (hx : pageOf x ∉ touchedPages s.addr.toNat s.wbuf.length) : Memory.read t.chip.mem x = Memory.read s.chip.mem x := by
  rw [exec, execWrite] at h
  split at h
  · obtain ⟨-, rfl⟩ := ‹_ ∧ _›
    rcases busStep_chip afterWrite_chip h with kept | ⟨ans, moved⟩
    · rw [kept]
    · rw [moved, chipAfter_write_read s ans hx]
  · cases h; rfl

/-- No request, no WREN and no status read outside the poll touches the array. -/
theorem exec_mem_of_other {i : Instr} {s t : State} (h : exec i s = .next t) (notWrite : ∀ a, i ≠ .write a)
    (notRead : ∀ a, i ≠ .read a) (notPoll : ¬(i = .rdsr ∧ s.st = .pollRdsr)) : t.chip.mem = s.chip.mem := by
  cases i with
  | wren => exact exec_wren_mem h
  | rdsr => exact exec_rdsr_mem h fun hs => notPoll ⟨rfl, hs⟩
  | read a => exact absurd rfl (notRead a)
  | write a => exact absurd rfl (notWrite a)
  | reqAttach x => exact congrArg Chip.mem (acceptRequest_chip (f := fun u => { u with st := .probe }) (fun _ => rfl) h)
  | reqRead addr len => exact congrArg Chip.mem (acceptRequest_chip (beginRead_chip addr len) h)
  | reqWrite addr len => exact congrArg Chip.mem (acceptRequest_chip (beginWrite_chip addr len) h)
  | reqDetach x =>
    exact congrArg Chip.mem
      (acceptRequest_chip (f := fun u => (u.emit .detach 0x00).complete) (fun _ => rfl) h)

/-- Settles O54: the array under each of the four commands and the requests. -/
theorem arrayFrame : Obligations.ArrayFrame := by
  intro i s t h
  refine ⟨fun notWrite notRead notPoll x => ?_, ?_, ?_, ?_⟩
  · rw [exec_mem_of_other h notWrite notRead notPoll]
  · rintro a rfl
    obtain ⟨ready, others⟩ := exec_read_mem h
    exact ⟨fun idle x => by rw [ready idle], others⟩
  · rintro a rfl x hx
    exact exec_write_mem h hx
  · rintro rfl hs
    rcases exec_rdsr_poll_mem h hs with kept | ⟨ended, others⟩
    · exact ⟨fun _ x => by rw [kept], fun x _ => by rw [kept]⟩
    · exact ⟨fun notEnded => absurd ended notEnded, others⟩

/-! ### The chip under a call delivered whole -/

section
variable {s : State} {rx : List Byte} (hb : s.cfg.backend = .chip)
include hb

/-- With the chip behind the transport, an `Ok` delivers the call to it. -/
theorem chipAfter_delivered (c : Call) : s.chipAfter c (.ok rx) = s.chip.deliver s.cfg.busyReads s.draws c := by
  simp [State.chipAfter, hb]

theorem answerTo_rdsr_chip (hbus : s.inp.bus = some (.ok rx)) :
    s.answerTo rdsrCall = some (.ok [s.chip.statusByte s.draws]) := by
  rw [answerTo_chip rdsrCall hb hbus, Chip.reply, rdsrCall_chipOp]

end

/-- A ready chip takes a WREN into its latch (R54). -/
theorem deliver_wren_ready {c : Chip} (br k : Nat) (ready : c.busy = 0) :
    c.deliver br k wrenCall = { c with wel := true } := by
  simp [Chip.deliver, wrenCall_chipOp, ready]

/-- A status read counts the busy reads down (R52). -/
theorem deliver_rdsr (c : Chip) (br k : Nat) : c.deliver br k rdsrCall = { c with busy := c.busy - 1 } := rfl

/-- A READ leaves a ready chip alone. -/
theorem deliver_read_ready {c : Chip} (br k : Nat) (a : Addr) (n : Nat) (ready : c.busy = 0) :
    c.deliver br k (readCall a n) = c := by
  rw [Chip.deliver, readCall_chipOp]
  exact Chip.afterReadArray_ready ready

/-- A WRITE of some data inside one page, to a ready chip with its latch set, is stored and starts the write cycle. -/
theorem deliver_write_page {c : Chip} {a : Addr} {d : List Byte} (br k : Nat) (ready : c.busy = 0)
    (latched : c.wel = true) (nonempty : 0 < d.length) (onePage : a.toNat % 256 + d.length ≤ 256) :
    c.deliver br k (writeCall a d) = { mem := Memory.writeBytes c.mem a.toNat d, wel := false, busy := br } := by
  have isDefined : c.writeDefined a.toNat d.length = true := by
    simp only [Chip.writeDefined, Bool.and_eq_true, decide_eq_true_eq]
    exact ⟨⟨⟨ready, latched⟩, nonempty⟩, onePage⟩
  rw [Chip.deliver, writeCall_chipOp]
  exact if_pos isDefined

/-- A ready chip answers a READ below 0x10000 with the array's bytes (U4 beyond). -/
theorem reply_read_ready {c : Chip} {a : Addr} {n : Nat} (k : Nat) (ready : c.busy = 0)
    (below : a.toNat + n ≤ 65536) : c.reply k (readCall a n) = Memory.readBytes c.mem a.toNat n := by
  rw [Chip.reply, readCall_chipOp]
  dsimp only
  rw [if_pos ready, Memory.readBytes]
  refine List.map_congr_left fun i hi => ?_
  have inside : a.toNat + i < Config.headerSpan := Nat.lt_of_lt_of_le (by have := List.mem_range.mp hi; omega) below
  exact if_pos inside

/-- Bytes stored inside the array are read back. -/
theorem readBytes_writeBytes {m : List Host.Cell} {a : Nat} {d : List Byte} (wf : Memory.wf m = true)
    (inside : a + d.length ≤ Config.totalSize) : Memory.readBytes (Memory.writeBytes m a d) a d.length = d := by
  refine List.ext_getElem (by simp [Memory.readBytes]) fun i _ hi => ?_
  simp only [Memory.readBytes, List.getElem_map, List.getElem_range]
  exact Memory.read_writeBytes_inside wf hi inside

/-- Bit 0 of the chip's status byte shows it busy (R25). -/
theorem statusByte_bit (c : Chip) (k : Nat) : (c.statusByte k).getLsbD 0 = decide (c.busy ≠ 0) := by
  rw [← busy_eq_getLsbD, busy_statusByte]
  exact decide_eq_decide.mpr Nat.pos_iff_ne_zero

/-- Settles O55: WREN and RDSR delivered, in each state that has them outstanding. -/
theorem chipTakesWrenAndStatus : Obligations.ChipTakesWrenAndStatus := by
  refine ⟨fun s rx hb hs hbus ready => ?_, fun s rx hb hs hbus => ?_, fun s rx hb hs hbus => ?_⟩
  · refine ⟨_, exec_wren_wrWren hs (answerTo_wren_ok hbus), rfl, ?_⟩
    exact (chipAfter_delivered hb wrenCall).trans (deliver_wren_ready _ _ ready)
  · refine ⟨_, exec_rdsr_probe hs (answerTo_rdsr_chip hb hbus), ?_, statusByte_bit _ _⟩
    exact (chipAfter_delivered hb rdsrCall).trans (deliver_rdsr _ _ _)
  · have hexec := exec_rdsr_poll hs (answerTo_rdsr_chip hb hbus)
    have delivered := (chipAfter_delivered (rx := [s.chip.statusByte s.draws]) hb rdsrCall).trans (deliver_rdsr _ _ _)
    constructor
    · intro ready
      have notBusy : busy (s.chip.statusByte s.draws) = false := by rw [busy_statusByte, ready]; rfl
      rw [afterPoll_ready _ notBusy] at hexec
      refine ⟨_, hexec, ?_, (statusByte_bit _ _).trans (decide_eq_false (not_not.mpr ready)), rfl, rfl⟩
      refine delivered.trans ?_
      rw [ready, Nat.zero_sub, ← ready]
    · intro isBusy left
      have shown : busy (s.chip.statusByte s.draws) = true := by
        rw [busy_statusByte]
        exact decide_eq_true (Nat.pos_of_ne_zero isBusy)
      rw [afterPoll_busy_waits (s.logCall rdsrCall _) shown left] at hexec
      exact ⟨_, hexec, delivered, (statusByte_bit _ _).trans (decide_eq_true isBusy), rfl⟩

/-- Settles O56: the WRITE delivered, and what the array then reads. -/
theorem chipStoresPageWrite : Obligations.ChipStoresPageWrite := by
  intro s rx hb hs hbus wf ready latched nonempty onePage
  have answered := answerTo_ok_of_receives_nothing hbus (writeCall_rxCount s.addr s.wbuf)
    (Chip.reply_length_write s.draws s.chip s.addr s.wbuf)
  have delivered : (s.logCall (writeCall s.addr s.wbuf) (.ok [])).chip =
      { mem := Memory.writeBytes s.chip.mem s.addr.toNat s.wbuf, wel := false, busy := s.cfg.busyReads } :=
    (chipAfter_delivered hb _).trans
      (deliver_write_page _ _ ready latched (List.length_pos_iff.mpr nonempty) onePage)
  have inside : s.addr.toNat + s.wbuf.length ≤ Config.totalSize := by
    have bound := s.addr.isLt
    rw [Config.totalSize]
    omega
  refine ⟨_, exec_write_wrXfer hs answered, ?_⟩
  rw [afterWrite_chip, delivered]
  exact ⟨readBytes_writeBytes wf inside, fun x outside => Memory.read_writeBytes_outside _ _ outside, rfl, rfl⟩

/-- Settles O57: the READ delivered, and the reply that becomes `rbuf`. -/
theorem chipReturnsArray : Obligations.ChipReturnsArray := by
  intro s rx hb hs hbus ready below
  have answered := answerTo_chip (readCall s.addr s.len.toNat) hb hbus
  refine ⟨_, exec_read_rdXfer hs answered, reply_read_ready _ ready below, ?_⟩
  exact (chipAfter_delivered hb _).trans (deliver_read_ready _ _ _ _ ready)

end Sys2Proof

/-! The source's round trip through the chip (95_test_vectors.md S3, P5): a write inside one page, polled until the chip is
ready, and a read of the same range. -/

namespace Sys2Proof

open Sys2Proof.Machine Sys2Proof.Safety

/-- The chip's status byte is the answer to a status read whose line says `Ok`. -/
theorem answerTo_answered_rdsr_chip {s : State} (hb : s.cfg.backend = .chip) (is : List Inputs) :
    (answered s (.ok []) is).answerTo rdsrCall = some (.ok [s.chip.statusByte s.draws]) :=
  answerTo_rdsr_chip (s := answered s (.ok []) is) hb rfl

/-- The chip's busy reads, each with its wait: at their end it is ready, with its array as it was. -/
theorem reaches_chipRounds {s : State} {n : Nat} (hb : s.cfg.backend = .chip) (wf : s.cfg.wf = true)
    (hs : s.st = .pollRdsr) (hn : s.chip.busy = n) (left : s.attempt.toNat + n < s.cfg.maxAttempts) :
    ∃ u : State, Reaches s (roundLines s.cfg.intervalTicks (List.replicate n (.ok []))) u
      ∧ u.chip.busy = 0 ∧ u.chip.mem = s.chip.mem
      ∧ u = { s with
        busLog := u.busLog, attempt := u.attempt, status := u.status, ivlCnt := u.ivlCnt
        chip := u.chip, draws := u.draws } := by
  induction n generalizing s with
  | zero => exact ⟨s, Reaches.refl s, hn, rfl, rfl⟩
  | succ n ih =>
    have counted := attempt_succ_toNat wf (s := s) (by omega)
    have isBusy : busy (s.chip.statusByte s.draws) = true := by
      rw [busy_statusByte, hn]
      exact decide_eq_true (Nat.succ_pos n)
    have round := reaches_busyRound hs (answerTo_answered_rdsr_chip hb) isBusy (by omega)
    have delivered := (chipAfter_delivered (rx := [s.chip.statusByte s.draws]) hb rdsrCall).trans (deliver_rdsr _ _ _)
    obtain ⟨u, rounds, ready, mem, frame⟩ := ih
      (s := { s.logCall rdsrCall (.ok [s.chip.statusByte s.draws]) with
        status := s.chip.statusByte s.draws, attempt := s.attempt + 1, ivlCnt := 0 }) hb wf hs
      (by simp [delivered, hn]) (by simp only [counted, State.logCall_cfg]; omega)
    exact ⟨u, round.trans rounds, ready, mem.trans (chipAfter_rdsr_mem s _), frame⟩

/-- A poll long enough for the chip ends in success, with a ready chip and its array as it was. -/
theorem reaches_chipPoll {s : State} {n : Nat} (hb : s.cfg.backend = .chip) (wf : s.cfg.wf = true)
    (hs : s.st = .pollRdsr) (hn : s.chip.busy = n) (left : s.attempt.toNat + n < s.cfg.maxAttempts) :
    ∃ v : State, Reaches s (pollScript s.cfg.intervalTicks (List.replicate (n + 1) (.ok []))) v
      ∧ v.st = .respond ∧ v.res = .ok ∧ v.op = s.op ∧ v.rspLog = s.rspLog ∧ v.cfg = s.cfg
      ∧ v.chip.busy = 0 ∧ v.chip.mem = s.chip.mem := by
  obtain ⟨u, rounds, ready, mem, frame⟩ := reaches_chipRounds hb wf hs hn left
  have cfg : u.cfg = s.cfg := by rw [frame]
  have backend : u.cfg.backend = .chip := by rw [cfg, hb]
  have notBusy : busy (u.chip.statusByte u.draws) = false := by rw [busy_statusByte, ready]; rfl
  have last := reaches_pollReady (s := u) (by rw [frame]; exact hs) (answerTo_answered_rdsr_chip backend) notBusy
  have delivered := (chipAfter_delivered (rx := [u.chip.statusByte u.draws]) backend rdsrCall).trans (deliver_rdsr _ _ _)
  rw [List.replicate_succ', pollScript_concat]
  refine ⟨_, rounds.trans last, rfl, rfl, by rw [frame]; rfl, by rw [frame]; rfl, cfg, ?_, ?_⟩
  · exact (congrArg Chip.busy delivered).trans (by rw [ready])
  · exact (congrArg Chip.mem delivered).trans mem

/-- A READ below 0x10000, delivered to a ready chip, is answered with the array's bytes. -/
theorem reaches_readDelivered {s : State} (hb : s.cfg.backend = .chip) (hs : s.st = .rdXfer) (ready : s.chip.busy = 0)
    (below : s.addr.toNat + s.len.toNat ≤ 65536) :
    Reaches s [answering (.ok [])]
      ({ s.logCall (readCall s.addr s.len.toNat) (.ok (Memory.readBytes s.chip.mem s.addr.toNat s.len.toNat)) with
        rbuf := Memory.readBytes s.chip.mem s.addr.toNat s.len.toNat } : State).complete := by
  refine reaches_row rfl fun is => ?_
  have reply : (answered s (.ok []) is).answerTo (readCall s.addr s.len.toNat) =
      some (.ok (Memory.readBytes s.chip.mem s.addr.toNat s.len.toNat)) := by
    rw [answerTo_chip (s := answered s (.ok []) is) _ hb rfl, ← reply_read_ready s.draws ready below]
    rfl
  exact .readOk (s := answered s (.ok []) is) hs _ reply

section
variable {s : State} {addr : Addr} {len : Len} (d : WData) (hb : s.cfg.backend = .chip) (hs : s.st = .idle)
  (ready : s.chip.busy = 0)
include hb hs ready

/-- A write inside one page, polled long enough, responds `OK` and leaves its data in the array of a ready chip. -/
theorem reaches_writeThroughChip (wf : s.cfg.wf = true) (enough : s.cfg.busyReads < s.cfg.maxAttempts)
    (nonempty : 0 < len.toNat) (onePage : addr.toNat % 256 + len.toNat ≤ 256) :
    ∃ v : State,
      Reaches s ([requesting (requestWord .write addr len) d, answering (.ok []), answering (.ok [])]
        ++ pollScript s.cfg.intervalTicks (List.replicate (s.cfg.busyReads + 1) (.ok [])) ++ [taking]) v
      ∧ v.st = .idle ∧ v.cfg = s.cfg ∧ v.chip.busy = 0
      ∧ v.chip.mem = Memory.writeBytes s.chip.mem addr.toNat (captureData d len.toNat)
      ∧ v.rspLog = s.rspLog ++ [⟨.write, .ok, none, none⟩] := by
  have inRange : addr.toNat + len.toNat ≤ 262144 := by have := addr.isLt; omega
  obtain ⟨u, entry, frame, chip⟩ := reaches_pollEntry (s := s) (addr := addr) (len := len) d hs inRange (by omega)
  have stored : u.chip =
      ⟨Memory.writeBytes s.chip.mem addr.toNat (captureData d len.toNat), false, s.cfg.busyReads⟩ := by
    rw [chip hb, deliver_wren_ready _ _ ready]
    exact deliver_write_page _ _ ready rfl (by simpa using nonempty) (by simpa using onePage)
  have cfg : u.cfg = s.cfg := by rw [frame]
  have fresh : u.attempt.toNat = 0 := by rw [frame]; rfl
  obtain ⟨v, poll, responds, ok, op, rspLog, cfg', idle, mem⟩ := reaches_chipPoll (s := u) (n := s.cfg.busyReads)
    (by rw [cfg, hb]) (by rw [cfg, wf]) (by rw [frame]) (by rw [stored]) (by rw [cfg, fresh]; omega)
  have writing : v.op = .write := by rw [op, frame]
  have response : v.response = ⟨.write, .ok, none, none⟩ := by simp [State.response, writing, ok]
  rw [cfg] at poll
  refine ⟨_, (entry.trans poll).trans (reaches_taking responds), ?_, cfg'.trans cfg, idle, ?_, ?_⟩
  · rw [State.deliverResponse_st, writing, afterResponse]
  · rw [State.deliverResponse_chip, mem, stored]
  · rw [State.deliverResponse_rspLog, response, rspLog, frame]

/-- A read below 0x10000 of a ready chip delivers the array's bytes. -/
theorem reaches_readThroughChip (below : addr.toNat + len.toNat ≤ 65536) :
    ∃ v : State, Reaches s [requesting (requestWord .read addr len) d, answering (.ok []), taking] v ∧ v.st = .idle
      ∧ v.rspLog = s.rspLog ++ [⟨.read, .ok, none, some (Memory.readBytes s.chip.mem addr.toNat len.toNat)⟩] := by
  have accepted := reaches_readAccepted (s := s) (addr := addr) (len := len) d hs (by omega)
  have received := reaches_readDelivered
    (s := { s with op := .read, addr := addr, len := len, st := .rdXfer }) hb rfl ready below
  exact ⟨_, (accepted.trans received).trans (reaches_taking rfl), rfl, rfl⟩

end

/-- Settles O58: the write leaves in a ready chip what the read of the same range then delivers. -/
theorem roundTripThroughChip : Obligations.RoundTripThroughChip := by
  intro s addr len d hb wf hs array ready enough nonempty onePage
  have below : addr.toNat + len.toNat ≤ 65536 := by have := addr.isLt; omega
  obtain ⟨v, write, idle, cfg, ready', mem, written⟩ :=
    reaches_writeThroughChip d hb hs ready wf enough nonempty onePage
  obtain ⟨w, read, idle', delivered⟩ :=
    reaches_readThroughChip (s := v) (addr := addr) (len := len) d (by rw [cfg, hb]) idle ready' below
  have readBack : Memory.readBytes v.chip.mem addr.toNat len.toNat = captureData d len.toNat := by
    have stored := readBytes_writeBytes (a := addr.toNat) (d := captureData d len.toNat) array
      (by rw [captureData_length, Config.totalSize]; omega)
    rwa [captureData_length, ← mem] at stored
  obtain ⟨t, run, ht⟩ := (write.trans read).endsAs
  refine ⟨t, by simpa using run, ?_⟩
  rw [ht, ← readBack]
  refine ⟨idle', ?_⟩
  rw [delivered, written, List.append_assoc]
  rfl

end Sys2Proof
